-- ==== Sys2Proof/Word.lean ====
section
/-! DEFINITION. The kinds of word the engine holds: field elements, control words, the error word. -/

namespace Sys2Proof

/-- A field element, held as its canonical representative, a natural number below the order of the field (R81). -/
abbrev Elt := Nat

/-- A 32-bit control word (`LEN`, `RCADDR`; R10, R62). -/
abbrev Ctl := BitVec 32

/-- The nine sticky bits of `ERR` (R28); bits 31:9 of the register read as 0. -/
abbrev ErrWord := BitVec 9

/-- An 8-bit address of the `REG` space (R40, R41). -/
abbrev Addr := BitVec 8

end Sys2Proof
end

