-- ==== Sys2Proof/Config.lean ====
section
/-! DEFINITION. The configuration record of one engine instance (R6), the two functions of it that the source
withholds (as opaque constants), and the two reference builds T101 and T256 (95_test_vectors.md section 0). -/

namespace Sys2Proof

/-- `FIELD` (R6): GF(p), or GF(2^n) with the `n+1`-bit integer `poly` of its irreducible polynomial (R83).
That `p` is prime and `poly` irreducible is a hypothesis and is not checked (R8, U13). -/
inductive FieldSpec where
  | prime (p : Nat)
  | binary (n poly : Nat)
deriving DecidableEq, Repr

/-- `ROUND` (R6, R88): the reference round `REF3`, or the `k`-th round function that the source withholds,
of which only what R88 says is known. -/
inductive RoundFn where
  | ref3
  | withheld (k : Nat)
deriving DecidableEq, Repr

/-- `KS_LAYOUT` (R6, R112): the default `(Nonce + IV, K0, K1)`, or the `k`-th layout that the source withholds. -/
inductive KsLayout where
  | noncePlusIv
  | withheld (k : Nat)
deriving DecidableEq, Repr

/-- `REFILL` (R6, R114): what the mask slot of the next DuplexState holds. -/
inductive Refill where
  | keep
  | const (v : Elt)
deriving DecidableEq, Repr

/-- The configuration record of R6. `FW`, `EB` and `DW` are derived from `field` (Machine/Params.lean);
`RC_DEPTH` is the length of `rc` (log 10). -/
structure Config where
  /-- `FIELD` -/
  field : FieldSpec
  /-- `W` -/
  w : Nat
  /-- `W_BIG` -/
  wBig : Nat
  /-- `W_SMALL` -/
  wSmall : Nat
  /-- `R_BIG` -/
  rBig : Nat
  /-- `R_SMALL` -/
  rSmall : Nat
  /-- `RC[0 .. RC_DEPTH-1]` -/
  rc : List Elt
  /-- `RC_OFFSET` -/
  rcOffset : Nat
  /-- `ROUND` -/
  round : RoundFn
  /-- `KS_LAYOUT` -/
  ksLayout : KsLayout
  /-- `MASK_SLOT` -/
  maskSlot : Nat
  /-- `REFILL` -/
  refill : Refill
  /-- `MAX_BLOCKS` -/
  maxBlocks : Nat
deriving DecidableEq, Repr

/-- The round function of a build whose `ROUND` is not `REF3`: for every constant a bijection of F^3 (R88 d),
a pure function of its arguments (R88 c), and nothing else is known of it. FREE VALUE (log 3). -/
opaque Config.withheldRound (f : FieldSpec) (k order rc : Nat) :
    Equiv.Perm (Fin order × Fin order × Fin order)

/-- The key-schedule layout of a build whose `KS_LAYOUT` is not the default: a pure function of its four
arguments (R112), and nothing else is known of it. FREE VALUE (log 4). -/
opaque Config.withheldLayout (f : FieldSpec) (k : Nat) (k0 k1 nonce iv : Elt) : Elt × Elt × Elt

/-- The reference build T101 over GF(101) (95_test_vectors.md section 0). -/
def Config.t101 : Config :=
  { field := .prime 101, w := 3, wBig := 3, wSmall := 3, rBig := 8, rSmall := 3,
    rc := [2, 3, 5, 7, 11, 13, 17, 19], rcOffset := 5, round := .ref3, ksLayout := .noncePlusIv,
    maskSlot := 0, refill := .keep, maxBlocks := 8 }

/-- The reference build T256 over GF(2^8) with `POLY` 0x11B (95_test_vectors.md section 0). -/
def Config.t256 : Config :=
  { field := .binary 8 0x11B, w := 3, wBig := 3, wSmall := 3, rBig := 4, rSmall := 2,
    rc := [0x02, 0x03, 0x53, 0xCA], rcOffset := 2, round := .ref3, ksLayout := .noncePlusIv,
    maskSlot := 0, refill := .keep, maxBlocks := 4 }

end Sys2Proof
end

