-- ==== Sys2Proof/Machine/Params.lean ====
section
/-! DEFINITION. What follows from the configuration record: the derived parameters of R6, `CFG_OK` (R7), the
constraints on a build (R6, R31, 93_implementation_defined.md section 3), and the `CFG_*` words (R31). -/

namespace Sys2Proof

/-- `|F|`, the number of elements (R81). -/
def FieldSpec.order : FieldSpec → Nat
  | .prime p => p
  | .binary n _ => 2 ^ n

/-- `FW` (R6): `ceil(log2 p)` for GF(p), `n` for GF(2^n). -/
def FieldSpec.fw : FieldSpec → Nat
  | .prime p => if p ≤ 1 then 0 else Nat.log2 (p - 1) + 1
  | .binary n _ => n

/-- A natural number is a canonical representative (R81). -/
def FieldSpec.canonical (f : FieldSpec) (a : Nat) : Bool :=
  decide (a < f.order)

/-- The carry-less product of two polynomials over GF(2), the bits of `b` taken from the lowest, `fuel` of them. -/
def clmul : Nat → Nat → Nat → Nat
  | 0, _, _ => 0
  | fuel + 1, a, b => (if b % 2 = 1 then a else 0) ^^^ clmul fuel (2 * a) (b / 2)

/-- `poly`, of degree `n`, is irreducible over GF(2): no product of two polynomials of lower degree, neither of them
a constant, is `poly`. -/
def PolyIrreducible (n poly : Nat) : Prop :=
  2 ^ n ≤ poly ∧ poly < 2 ^ (n + 1) ∧
    ∀ a b : Nat, 1 < a → a < 2 ^ n → 1 < b → b < 2 ^ n → clmul n a b ≠ poly

/-- A conforming `FIELD` is a field of at least three elements (R6, R8, D33): the hypothesis under which the laws of
R84 hold. The engine does not check it (U13). -/
def FieldSpec.IsField : FieldSpec → Prop
  | .prime p => p.Prime ∧ 3 ≤ p
  | .binary n poly => 2 ≤ n ∧ PolyIrreducible n poly

/-- `FW` of the build. -/
def Config.fw (c : Config) : Nat :=
  c.field.fw

/-- `EB` (R6): bytes of the fixed-width byte encoding, `ceil(FW/8)`. -/
def Config.eb (c : Config) : Nat :=
  (c.fw + 7) / 8

/-- `DW` (R6, D34): width of the host data path, `max(32, FW)`. -/
def Config.dw (c : Config) : Nat :=
  max 32 c.fw

/-- `RC_DEPTH` (R6): the number of entries of the ROM. -/
def Config.rcDepth (c : Config) : Nat :=
  c.rc.length

/-- `CFG_OK` (R7). -/
def Config.cfgOk (c : Config) : Bool :=
  decide (c.w = 3 ∧ c.wBig = c.w ∧ c.wSmall = c.w ∧ 1 ≤ c.rBig ∧ 1 ≤ c.rSmall ∧ c.rBig ≤ c.rcDepth ∧
    c.rcOffset + c.rSmall ≤ c.rBig ∧ c.maskSlot < c.w)

/-- The value `REFILL = CONST(v)` writes is canonical (R6). -/
def Refill.canonical (f : FieldSpec) : Refill → Bool
  | .keep => true
  | .const v => f.canonical v

/-- The reduction polynomial has degree `n` (R83); nothing is asked of a prime field here. -/
def FieldSpec.shaped : FieldSpec → Bool
  | .prime _ => true
  | .binary n poly => decide (2 ^ n ≤ poly ∧ poly < 2 ^ (n + 1))

/-- The constraints R6, R31 and R90 put on the values of a build, apart from `CFG_OK` and from the field being a
field: at least two elements (so that `1_F` exists, R85), a `POLY` of degree `n`, canonical ROM words and refill value,
and sizes that fit the `CFG_*` registers. -/
def Config.admissible (c : Config) : Bool :=
  decide (2 ≤ c.field.order) && c.field.shaped && c.rc.all c.field.canonical && c.refill.canonical c.field &&
    decide (c.w < 256 ∧ c.wBig < 256 ∧ c.wSmall < 256 ∧ c.maskSlot < 256 ∧ c.fw < 65536 ∧ c.rBig < 2 ^ 32 ∧
      c.rSmall < 2 ^ 32 ∧ c.rcOffset < 2 ^ 32 ∧ c.rcDepth < 2 ^ 32 ∧ c.maxBlocks < 2 ^ 32)

/-! ## The words of the `CFG_*` registers (R31) -/

/-- `CFG_FIELD`: bit 0 the family, bits 31:16 `FW`. -/
def Config.fieldWord (c : Config) : Nat :=
  (match c.field with
    | .prime _ => 0
    | .binary _ _ => 1) + 2 ^ 16 * (c.fw % 2 ^ 16)

/-- `CFG_W`: bits 7:0 `W`, bits 15:8 `W_BIG`, bits 23:16 `W_SMALL`. -/
def Config.widthWord (c : Config) : Nat :=
  c.w % 2 ^ 8 + 2 ^ 8 * (c.wBig % 2 ^ 8) + 2 ^ 16 * (c.wSmall % 2 ^ 8)

/-- `CFG_SLOT`: bits 7:0 `MASK_SLOT`, bit 8 the kind of `REFILL`. -/
def Config.slotWord (c : Config) : Nat :=
  c.maskSlot % 2 ^ 8 + 2 ^ 8 *
    (match c.refill with
      | .keep => 0
      | .const _ => 1)

/-- `CFG_MOD`: `p`, or the coefficients of `POLY` below `x^n`. -/
def Config.modWord (c : Config) : Nat :=
  match c.field with
  | .prime p => p
  | .binary n poly => poly % 2 ^ n

/-- `CFG_REFILLV`: `v` when `REFILL = CONST(v)`, else 0. -/
def Config.refillWord (c : Config) : Nat :=
  match c.refill with
  | .keep => 0
  | .const v => v

end Sys2Proof
end

