-- ==== Sys2Proof/Machine/Field.lean ====
section
/-! DEFINITION. Field arithmetic on canonical representatives (R80 to R86) and the fixed-width byte encoding (R87). -/

namespace Sys2Proof

/-- The loop of R83: `fuel` bits of `b` taken from the lowest, `a` doubled and reduced by `poly` of degree `n` at each
turn, `r` the sum so far. A canonical `b` has `n` bits, so `fuel` = `n` is the whole loop. -/
def mulLoop (n poly : Nat) : Nat → Nat → Nat → Nat → Nat
  | 0, r, _, _ => r
  | fuel + 1, r, a, b =>
    mulLoop n poly fuel (if b % 2 = 1 then r ^^^ a else r)
      (if (2 * a).testBit n then 2 * a ^^^ poly else 2 * a) (b / 2)

/-- Field addition (R82, R83). -/
def FieldSpec.add : FieldSpec → Elt → Elt → Elt
  | .prime p, a, b => (a + b) % p
  | .binary _ _, a, b => a ^^^ b

/-- Field subtraction (R82: `a - b` if `a ≥ b`, else `a - b + p`; R83: every element is its own negative). -/
def FieldSpec.sub : FieldSpec → Elt → Elt → Elt
  | .prime p, a, b => if b ≤ a then a - b else a + p - b
  | .binary _ _, a, b => a ^^^ b

/-- Field multiplication (R82, R83). -/
def FieldSpec.mul : FieldSpec → Elt → Elt → Elt
  | .prime p, a, b => (a * b) % p
  | .binary n poly, a, b => mulLoop n poly n 0 a b

/-- The big-endian digits of `a` in base 256, `count` of them. -/
def bytesBE : Nat → Nat → List (BitVec 8)
  | 0, _ => []
  | count + 1, a => BitVec.ofNat 8 (a / 256 ^ count) :: bytesBE count a

/-- The natural number a byte string is, most significant byte first. -/
def natOfBytes (bs : List (BitVec 8)) : Nat :=
  bs.foldl (fun acc b => 256 * acc + b.toNat) 0

/-- The fixed-width byte encoding of an element: `EB` bytes, most significant first (R48, R87). For loaders; the engine
never uses it (log 18). -/
def Config.elementBytes (c : Config) (a : Elt) : List (BitVec 8) :=
  bytesBE c.eb a

/-- The element a byte string of `EB` bytes is, none if it is not of that length or its number is not canonical (R87). -/
def Config.elementOfBytes (c : Config) (bs : List (BitVec 8)) : Option Elt :=
  if bs.length = c.eb ∧ natOfBytes bs < c.field.order then some (natOfBytes bs) else none

end Sys2Proof
end

