-- ==== Sys2Proof/Syntax.lean ====
section
/-! DEFINITION. The host's transactions (R60) and the host operations they are: one constructor of `Instr` for each
row of spec/opcode_table.json (R71). -/

namespace Sys2Proof

/-- One transaction of the host port, the abstract record `(we, addr, data)` of R60: `we` set for a write,
`data` the word on the `DW`-bit data path. -/
structure Transaction where
  we : Bool
  addr : Addr
  data : Nat
deriving DecidableEq, Repr

/-- The host operations. A write carries the whole `DW`-bit word `data`. A command is selected by the low 32 bits of
its word (R61, R64), so the four named commands carry only the bits above them, `hi = data[DW-1:32]`, which R65 (b)
refuses when they are not zero. A read carries nothing: its data field is ignored by the engine (R60). -/
inductive Instr where
  /-- `CMD.NOP` (R181, 43_commands.md). -/
  | cmdNop (hi : Nat)
  /-- `CMD.START_ENC` (R182, 43_commands.md). -/
  | cmdStartEnc (hi : Nat)
  /-- `CMD.START_DEC` (R183, 43_commands.md). -/
  | cmdStartDec (hi : Nat)
  /-- `CMD.CLR` (R184, 43_commands.md). -/
  | cmdClr (hi : Nat)
  /-- `CMD.reserved` (R185, 43_commands.md). -/
  | cmdReserved (data : Nat)
  /-- `RD.CMD` (R166, 42_host_operations.md). -/
  | rdCmd
  /-- `WR.STATUS` (R152, 42_host_operations.md). -/
  | wrStatus (data : Nat)
  /-- `RD.STATUS` (R153, 42_host_operations.md). -/
  | rdStatus
  /-- `WR.ERR` (R152, 42_host_operations.md). -/
  | wrErr (data : Nat)
  /-- `RD.ERR` (R154, 42_host_operations.md). -/
  | rdErr
  /-- `WR.LEN` (R149, 42_host_operations.md). -/
  | wrLen (data : Nat)
  /-- `RD.LEN` (R155, 42_host_operations.md). -/
  | rdLen
  /-- `WR.CNT` (R152, 42_host_operations.md). -/
  | wrCnt (data : Nat)
  /-- `RD.CNT` (R156, 42_host_operations.md). -/
  | rdCnt
  /-- `WR.BLK` (R152, 42_host_operations.md). -/
  | wrBlk (data : Nat)
  /-- `RD.BLK` (R157, 42_host_operations.md). -/
  | rdBlk
  /-- `WR.K0` (R144, 42_host_operations.md). -/
  | wrK0 (data : Nat)
  /-- `RD.K0` (R166, 42_host_operations.md). -/
  | rdK0
  /-- `WR.K1` (R145, 42_host_operations.md). -/
  | wrK1 (data : Nat)
  /-- `RD.K1` (R166, 42_host_operations.md). -/
  | rdK1
  /-- `WR.NONCE` (R146, 42_host_operations.md). -/
  | wrNonce (data : Nat)
  /-- `RD.NONCE` (R158, 42_host_operations.md). -/
  | rdNonce
  /-- `WR.IV` (R147, 42_host_operations.md). -/
  | wrIv (data : Nat)
  /-- `RD.IV` (R159, 42_host_operations.md). -/
  | rdIv
  /-- `WR.TAGIN` (R148, 42_host_operations.md). -/
  | wrTagin (data : Nat)
  /-- `RD.TAGIN` (R160, 42_host_operations.md). -/
  | rdTagin
  /-- `WR.TAGOUT` (R152, 42_host_operations.md). -/
  | wrTagout (data : Nat)
  /-- `RD.TAGOUT` (R161, 42_host_operations.md). -/
  | rdTagout
  /-- `WR.DIN` (R150, 42_host_operations.md). -/
  | wrDin (data : Nat)
  /-- `RD.DIN` (R166, 42_host_operations.md). -/
  | rdDin
  /-- `WR.DOUT` (R152, 42_host_operations.md). -/
  | wrDout (data : Nat)
  /-- `RD.DOUT` (R162, 42_host_operations.md). -/
  | rdDout
  /-- `WR.RCADDR` (R151, 42_host_operations.md). -/
  | wrRcaddr (data : Nat)
  /-- `RD.RCADDR` (R163, 42_host_operations.md). -/
  | rdRcaddr
  /-- `WR.RCDATA` (R152, 42_host_operations.md). -/
  | wrRcdata (data : Nat)
  /-- `RD.RCDATA` (R164, 42_host_operations.md). -/
  | rdRcdata
  /-- `WR.CFG_FIELD` (R152, 42_host_operations.md). -/
  | wrCfgField (data : Nat)
  /-- `RD.CFG_FIELD` (R165, 42_host_operations.md). -/
  | rdCfgField
  /-- `WR.CFG_W` (R152, 42_host_operations.md). -/
  | wrCfgW (data : Nat)
  /-- `RD.CFG_W` (R165, 42_host_operations.md). -/
  | rdCfgW
  /-- `WR.CFG_RBIG` (R152, 42_host_operations.md). -/
  | wrCfgRbig (data : Nat)
  /-- `RD.CFG_RBIG` (R165, 42_host_operations.md). -/
  | rdCfgRbig
  /-- `WR.CFG_RSMALL` (R152, 42_host_operations.md). -/
  | wrCfgRsmall (data : Nat)
  /-- `RD.CFG_RSMALL` (R165, 42_host_operations.md). -/
  | rdCfgRsmall
  /-- `WR.CFG_RCOFF` (R152, 42_host_operations.md). -/
  | wrCfgRcoff (data : Nat)
  /-- `RD.CFG_RCOFF` (R165, 42_host_operations.md). -/
  | rdCfgRcoff
  /-- `WR.CFG_RCDEPTH` (R152, 42_host_operations.md). -/
  | wrCfgRcdepth (data : Nat)
  /-- `RD.CFG_RCDEPTH` (R165, 42_host_operations.md). -/
  | rdCfgRcdepth
  /-- `WR.CFG_MAXBLK` (R152, 42_host_operations.md). -/
  | wrCfgMaxblk (data : Nat)
  /-- `RD.CFG_MAXBLK` (R165, 42_host_operations.md). -/
  | rdCfgMaxblk
  /-- `WR.CFG_SLOT` (R152, 42_host_operations.md). -/
  | wrCfgSlot (data : Nat)
  /-- `RD.CFG_SLOT` (R165, 42_host_operations.md). -/
  | rdCfgSlot
  /-- `WR.CFG_MOD` (R152, 42_host_operations.md). -/
  | wrCfgMod (data : Nat)
  /-- `RD.CFG_MOD` (R165, 42_host_operations.md). -/
  | rdCfgMod
  /-- `WR.CFG_REFILLV` (R152, 42_host_operations.md). -/
  | wrCfgRefillv (data : Nat)
  /-- `RD.CFG_REFILLV` (R165, 42_host_operations.md). -/
  | rdCfgRefillv
  /-- `WR.undefined` (R152, 42_host_operations.md). -/
  | wrUndefined (addr : Addr) (data : Nat)
  /-- `RD.undefined` (R166, 42_host_operations.md). -/
  | rdUndefined (addr : Addr)
deriving DecidableEq, Repr

end Sys2Proof
end

