-- ==== Sys2Proof/WellFormed.lean ====
section
/-! DEFINITION. Which terms of `Instr` are host operations of a port with a `DW`-bit data path (R60, R62, R64). -/

namespace Sys2Proof

/-- The register addresses of the map of R62, `CMD` among them. Every other address is undefined. -/
def definedAddrs : List Addr :=
  [0x00, 0x01, 0x02, 0x03, 0x04, 0x05, 0x08, 0x09, 0x0A, 0x0B, 0x0C, 0x0D, 0x0E, 0x0F, 0x10, 0x11] ++
  [0x20, 0x21, 0x22, 0x23, 0x24, 0x25, 0x26, 0x27, 0x2A, 0x2B]

/-- Whether R62 gives the address a register. -/
def definedAddr (a : Addr) : Bool :=
  definedAddrs.contains a

/-- A reserved command word: bits 31:8 not all zero, or an opcode of 0x04 or above (R63, R64, R185), read from the
low 32 bits of the data. -/
def reservedCommand (data : Nat) : Bool :=
  decide (4 ≤ data % 2 ^ 32)

/-- The operation fits a port with a `dw`-bit data path and its encoding belongs to its own row of the table:
the word is below `2^dw`, a reserved command is reserved, an undefined address is undefined. -/
def Instr.wf (dw : Nat) : Instr → Bool
  | .cmdNop hi => decide (hi < 2 ^ (dw - 32))
  | .cmdStartEnc hi => decide (hi < 2 ^ (dw - 32))
  | .cmdStartDec hi => decide (hi < 2 ^ (dw - 32))
  | .cmdClr hi => decide (hi < 2 ^ (dw - 32))
  | .cmdReserved data => decide (data < 2 ^ dw) && reservedCommand data
  | .rdCmd => true
  | .wrStatus data => decide (data < 2 ^ dw)
  | .rdStatus => true
  | .wrErr data => decide (data < 2 ^ dw)
  | .rdErr => true
  | .wrLen data => decide (data < 2 ^ dw)
  | .rdLen => true
  | .wrCnt data => decide (data < 2 ^ dw)
  | .rdCnt => true
  | .wrBlk data => decide (data < 2 ^ dw)
  | .rdBlk => true
  | .wrK0 data => decide (data < 2 ^ dw)
  | .rdK0 => true
  | .wrK1 data => decide (data < 2 ^ dw)
  | .rdK1 => true
  | .wrNonce data => decide (data < 2 ^ dw)
  | .rdNonce => true
  | .wrIv data => decide (data < 2 ^ dw)
  | .rdIv => true
  | .wrTagin data => decide (data < 2 ^ dw)
  | .rdTagin => true
  | .wrTagout data => decide (data < 2 ^ dw)
  | .rdTagout => true
  | .wrDin data => decide (data < 2 ^ dw)
  | .rdDin => true
  | .wrDout data => decide (data < 2 ^ dw)
  | .rdDout => true
  | .wrRcaddr data => decide (data < 2 ^ dw)
  | .rdRcaddr => true
  | .wrRcdata data => decide (data < 2 ^ dw)
  | .rdRcdata => true
  | .wrCfgField data => decide (data < 2 ^ dw)
  | .rdCfgField => true
  | .wrCfgW data => decide (data < 2 ^ dw)
  | .rdCfgW => true
  | .wrCfgRbig data => decide (data < 2 ^ dw)
  | .rdCfgRbig => true
  | .wrCfgRsmall data => decide (data < 2 ^ dw)
  | .rdCfgRsmall => true
  | .wrCfgRcoff data => decide (data < 2 ^ dw)
  | .rdCfgRcoff => true
  | .wrCfgRcdepth data => decide (data < 2 ^ dw)
  | .rdCfgRcdepth => true
  | .wrCfgMaxblk data => decide (data < 2 ^ dw)
  | .rdCfgMaxblk => true
  | .wrCfgSlot data => decide (data < 2 ^ dw)
  | .rdCfgSlot => true
  | .wrCfgMod data => decide (data < 2 ^ dw)
  | .rdCfgMod => true
  | .wrCfgRefillv data => decide (data < 2 ^ dw)
  | .rdCfgRefillv => true
  | .wrUndefined addr data => decide (data < 2 ^ dw) && !definedAddr addr
  | .rdUndefined addr => !definedAddr addr

end Sys2Proof
end

