-- ==== Sys2Proof/Decode.lean ====
section
/-! DEFINITION. The decoder, total on every transaction and rejecting by name what is none (R60 to R65); the encoder;
the opcode table over the 41-bit decode key (R61, R71); and the reading of a table word the host asks for. -/

namespace Sys2Proof

/-- Why a record or a bit pattern is no transaction of the port. -/
inductive DecodeError where
  /-- The data does not fit the `DW`-bit data path (R60). -/
  | dataTooWide
  /-- The bit pattern is longer than `9 + DW` bits (R60, R67). -/
  | wordTooLong
deriving DecidableEq, Repr

/-- A write to `CMD`: the low 32 bits of the data are the command word (R61, R63, R64). -/
def decodeCommand (data : Nat) : Instr :=
  match data % 2 ^ 32 with
  | 0 => .cmdNop (data / 2 ^ 32)
  | 1 => .cmdStartEnc (data / 2 ^ 32)
  | 2 => .cmdStartDec (data / 2 ^ 32)
  | 3 => .cmdClr (data / 2 ^ 32)
  | _ => .cmdReserved data

/-- A write, by its register address (R62). -/
def decodeWrite (addr : Addr) (data : Nat) : Instr :=
  match addr.toNat with
  | 0x00 => decodeCommand data
  | 0x01 => .wrStatus data
  | 0x02 => .wrErr data
  | 0x03 => .wrLen data
  | 0x04 => .wrCnt data
  | 0x05 => .wrBlk data
  | 0x08 => .wrK0 data
  | 0x09 => .wrK1 data
  | 0x0A => .wrNonce data
  | 0x0B => .wrIv data
  | 0x0C => .wrTagin data
  | 0x0D => .wrTagout data
  | 0x0E => .wrDin data
  | 0x0F => .wrDout data
  | 0x10 => .wrRcaddr data
  | 0x11 => .wrRcdata data
  | 0x20 => .wrCfgField data
  | 0x21 => .wrCfgW data
  | 0x22 => .wrCfgRbig data
  | 0x23 => .wrCfgRsmall data
  | 0x24 => .wrCfgRcoff data
  | 0x25 => .wrCfgRcdepth data
  | 0x26 => .wrCfgMaxblk data
  | 0x27 => .wrCfgSlot data
  | 0x2A => .wrCfgMod data
  | 0x2B => .wrCfgRefillv data
  | _ => .wrUndefined addr data

/-- A read, by its register address (R62); the data field is ignored (R60). -/
def decodeRead (addr : Addr) : Instr :=
  match addr.toNat with
  | 0x00 => .rdCmd
  | 0x01 => .rdStatus
  | 0x02 => .rdErr
  | 0x03 => .rdLen
  | 0x04 => .rdCnt
  | 0x05 => .rdBlk
  | 0x08 => .rdK0
  | 0x09 => .rdK1
  | 0x0A => .rdNonce
  | 0x0B => .rdIv
  | 0x0C => .rdTagin
  | 0x0D => .rdTagout
  | 0x0E => .rdDin
  | 0x0F => .rdDout
  | 0x10 => .rdRcaddr
  | 0x11 => .rdRcdata
  | 0x20 => .rdCfgField
  | 0x21 => .rdCfgW
  | 0x22 => .rdCfgRbig
  | 0x23 => .rdCfgRsmall
  | 0x24 => .rdCfgRcoff
  | 0x25 => .rdCfgRcdepth
  | 0x26 => .rdCfgMaxblk
  | 0x27 => .rdCfgSlot
  | 0x2A => .rdCfgMod
  | 0x2B => .rdCfgRefillv
  | _ => .rdUndefined addr

/-- The host operation a transaction is, on a port with a `dw`-bit data path (R61, R65 (e)). -/
def decode (dw : Nat) (t : Transaction) : Except DecodeError Instr :=
  if t.data < 2 ^ dw then .ok (if t.we then decodeWrite t.addr t.data else decodeRead t.addr)
  else .error .dataTooWide

/-- The `9 + DW` bits of a transaction: `we` at bit `DW+8`, `addr` at bits `DW+7:DW`, `data` below (R60). -/
def Transaction.toBits (dw : Nat) (t : Transaction) : Nat :=
  (if t.we then 2 ^ (dw + 8) else 0) + t.addr.toNat * 2 ^ dw + t.data

/-- The transaction that a pattern of `9 + DW` bits is; bits above those are not part of it (R60). -/
def Transaction.ofBits (dw w : Nat) : Transaction :=
  { we := w / 2 ^ (dw + 8) % 2 == 1, addr := BitVec.ofNat 8 (w / 2 ^ dw), data := w % 2 ^ dw }

/-- The host operation a bit pattern is; a longer pattern is rejected (R60, R67). -/
def decodeBits (dw w : Nat) : Except DecodeError Instr :=
  if w < 2 ^ (dw + 9) then decode dw (Transaction.ofBits dw w) else .error .wordTooLong

/-! ## The encoder, from the same tables (R62, R64) -/

/-- A write transaction. -/
def Transaction.wr (addr : Addr) (data : Nat) : Transaction :=
  { we := true, addr := addr, data := data }

/-- A read transaction; its ignored data field is written as 0 (R60). -/
def Transaction.rd (addr : Addr) : Transaction :=
  { we := false, addr := addr, data := 0 }

/-- The transaction of a host operation (R60, R62, R64). -/
def encode : Instr → Transaction
  | .cmdNop hi => .wr 0x00 (hi * 2 ^ 32 + 0)
  | .cmdStartEnc hi => .wr 0x00 (hi * 2 ^ 32 + 1)
  | .cmdStartDec hi => .wr 0x00 (hi * 2 ^ 32 + 2)
  | .cmdClr hi => .wr 0x00 (hi * 2 ^ 32 + 3)
  | .cmdReserved data => .wr 0x00 data
  | .rdCmd => .rd 0x00
  | .wrStatus data => .wr 0x01 data
  | .rdStatus => .rd 0x01
  | .wrErr data => .wr 0x02 data
  | .rdErr => .rd 0x02
  | .wrLen data => .wr 0x03 data
  | .rdLen => .rd 0x03
  | .wrCnt data => .wr 0x04 data
  | .rdCnt => .rd 0x04
  | .wrBlk data => .wr 0x05 data
  | .rdBlk => .rd 0x05
  | .wrK0 data => .wr 0x08 data
  | .rdK0 => .rd 0x08
  | .wrK1 data => .wr 0x09 data
  | .rdK1 => .rd 0x09
  | .wrNonce data => .wr 0x0A data
  | .rdNonce => .rd 0x0A
  | .wrIv data => .wr 0x0B data
  | .rdIv => .rd 0x0B
  | .wrTagin data => .wr 0x0C data
  | .rdTagin => .rd 0x0C
  | .wrTagout data => .wr 0x0D data
  | .rdTagout => .rd 0x0D
  | .wrDin data => .wr 0x0E data
  | .rdDin => .rd 0x0E
  | .wrDout data => .wr 0x0F data
  | .rdDout => .rd 0x0F
  | .wrRcaddr data => .wr 0x10 data
  | .rdRcaddr => .rd 0x10
  | .wrRcdata data => .wr 0x11 data
  | .rdRcdata => .rd 0x11
  | .wrCfgField data => .wr 0x20 data
  | .rdCfgField => .rd 0x20
  | .wrCfgW data => .wr 0x21 data
  | .rdCfgW => .rd 0x21
  | .wrCfgRbig data => .wr 0x22 data
  | .rdCfgRbig => .rd 0x22
  | .wrCfgRsmall data => .wr 0x23 data
  | .rdCfgRsmall => .rd 0x23
  | .wrCfgRcoff data => .wr 0x24 data
  | .rdCfgRcoff => .rd 0x24
  | .wrCfgRcdepth data => .wr 0x25 data
  | .rdCfgRcdepth => .rd 0x25
  | .wrCfgMaxblk data => .wr 0x26 data
  | .rdCfgMaxblk => .rd 0x26
  | .wrCfgSlot data => .wr 0x27 data
  | .rdCfgSlot => .rd 0x27
  | .wrCfgMod data => .wr 0x2A data
  | .rdCfgMod => .rd 0x2A
  | .wrCfgRefillv data => .wr 0x2B data
  | .rdCfgRefillv => .rd 0x2B
  | .wrUndefined addr data => .wr addr data
  | .rdUndefined addr => .rd addr

/-- The bit pattern of a host operation on a port with a `dw`-bit data path (R60). -/
def encodeBits (dw : Nat) (i : Instr) : Nat :=
  (encode i).toBits dw

/-! ## The opcode table over the 41-bit decode key (R61, R71) -/

/-- The decode key `we ‖ addr ‖ data[31:0]` of a transaction (R61). -/
def Transaction.key (t : Transaction) : BitVec 41 :=
  BitVec.ofBool t.we ++ t.addr ++ BitVec.ofNat 32 t.data

/-- One row of spec/opcode_table.json: its mnemonic, `match` and `mask`. -/
structure OpcodeRow where
  mnemonic : String
  pattern : BitVec 41
  mask : BitVec 41
deriving DecidableEq, Repr

/-- The key is of the row: `(key & mask) = match` (R61). -/
def OpcodeRow.covers (r : OpcodeRow) (key : BitVec 41) : Bool :=
  key &&& r.mask == r.pattern

/-- The rows of commands (R71), the catch-all `CMD.reserved` last. -/
def commandRows : List OpcodeRow :=
  [⟨"CMD.NOP", 0x10000000000, 0x1FFFFFFFFFF⟩,
   ⟨"CMD.START_ENC", 0x10000000001, 0x1FFFFFFFFFF⟩,
   ⟨"CMD.START_DEC", 0x10000000002, 0x1FFFFFFFFFF⟩,
   ⟨"CMD.CLR", 0x10000000003, 0x1FFFFFFFFFF⟩,
   ⟨"CMD.reserved", 0x10000000000, 0x1FF00000000⟩]

/-- The rows of the control and element registers, in the table's order. -/
def registerRows : List OpcodeRow :=
  [⟨"RD.CMD", 0x00000000000, 0x1FF00000000⟩,
   ⟨"WR.STATUS", 0x10100000000, 0x1FF00000000⟩,
   ⟨"RD.STATUS", 0x00100000000, 0x1FF00000000⟩,
   ⟨"WR.ERR", 0x10200000000, 0x1FF00000000⟩,
   ⟨"RD.ERR", 0x00200000000, 0x1FF00000000⟩,
   ⟨"WR.LEN", 0x10300000000, 0x1FF00000000⟩,
   ⟨"RD.LEN", 0x00300000000, 0x1FF00000000⟩,
   ⟨"WR.CNT", 0x10400000000, 0x1FF00000000⟩,
   ⟨"RD.CNT", 0x00400000000, 0x1FF00000000⟩,
   ⟨"WR.BLK", 0x10500000000, 0x1FF00000000⟩,
   ⟨"RD.BLK", 0x00500000000, 0x1FF00000000⟩,
   ⟨"WR.K0", 0x10800000000, 0x1FF00000000⟩,
   ⟨"RD.K0", 0x00800000000, 0x1FF00000000⟩,
   ⟨"WR.K1", 0x10900000000, 0x1FF00000000⟩,
   ⟨"RD.K1", 0x00900000000, 0x1FF00000000⟩,
   ⟨"WR.NONCE", 0x10A00000000, 0x1FF00000000⟩] ++
  [⟨"RD.NONCE", 0x00A00000000, 0x1FF00000000⟩,
   ⟨"WR.IV", 0x10B00000000, 0x1FF00000000⟩,
   ⟨"RD.IV", 0x00B00000000, 0x1FF00000000⟩,
   ⟨"WR.TAGIN", 0x10C00000000, 0x1FF00000000⟩,
   ⟨"RD.TAGIN", 0x00C00000000, 0x1FF00000000⟩,
   ⟨"WR.TAGOUT", 0x10D00000000, 0x1FF00000000⟩,
   ⟨"RD.TAGOUT", 0x00D00000000, 0x1FF00000000⟩,
   ⟨"WR.DIN", 0x10E00000000, 0x1FF00000000⟩,
   ⟨"RD.DIN", 0x00E00000000, 0x1FF00000000⟩,
   ⟨"WR.DOUT", 0x10F00000000, 0x1FF00000000⟩,
   ⟨"RD.DOUT", 0x00F00000000, 0x1FF00000000⟩,
   ⟨"WR.RCADDR", 0x11000000000, 0x1FF00000000⟩,
   ⟨"RD.RCADDR", 0x01000000000, 0x1FF00000000⟩,
   ⟨"WR.RCDATA", 0x11100000000, 0x1FF00000000⟩,
   ⟨"RD.RCDATA", 0x01100000000, 0x1FF00000000⟩]

/-- The rows of the configuration registers. -/
def configRows : List OpcodeRow :=
  [⟨"WR.CFG_FIELD", 0x12000000000, 0x1FF00000000⟩,
   ⟨"RD.CFG_FIELD", 0x02000000000, 0x1FF00000000⟩,
   ⟨"WR.CFG_W", 0x12100000000, 0x1FF00000000⟩,
   ⟨"RD.CFG_W", 0x02100000000, 0x1FF00000000⟩,
   ⟨"WR.CFG_RBIG", 0x12200000000, 0x1FF00000000⟩,
   ⟨"RD.CFG_RBIG", 0x02200000000, 0x1FF00000000⟩,
   ⟨"WR.CFG_RSMALL", 0x12300000000, 0x1FF00000000⟩,
   ⟨"RD.CFG_RSMALL", 0x02300000000, 0x1FF00000000⟩,
   ⟨"WR.CFG_RCOFF", 0x12400000000, 0x1FF00000000⟩,
   ⟨"RD.CFG_RCOFF", 0x02400000000, 0x1FF00000000⟩,
   ⟨"WR.CFG_RCDEPTH", 0x12500000000, 0x1FF00000000⟩,
   ⟨"RD.CFG_RCDEPTH", 0x02500000000, 0x1FF00000000⟩,
   ⟨"WR.CFG_MAXBLK", 0x12600000000, 0x1FF00000000⟩,
   ⟨"RD.CFG_MAXBLK", 0x02600000000, 0x1FF00000000⟩,
   ⟨"WR.CFG_SLOT", 0x12700000000, 0x1FF00000000⟩,
   ⟨"RD.CFG_SLOT", 0x02700000000, 0x1FF00000000⟩,
   ⟨"WR.CFG_MOD", 0x12A00000000, 0x1FF00000000⟩,
   ⟨"RD.CFG_MOD", 0x02A00000000, 0x1FF00000000⟩,
   ⟨"WR.CFG_REFILLV", 0x12B00000000, 0x1FF00000000⟩,
   ⟨"RD.CFG_REFILLV", 0x02B00000000, 0x1FF00000000⟩]

/-- The catch-all rows of the undefined addresses. -/
def undefinedRows : List OpcodeRow :=
  [⟨"WR.undefined", 0x10000000000, 0x10000000000⟩,
   ⟨"RD.undefined", 0x00000000000, 0x10000000000⟩]

/-- spec/opcode_table.json, in its order: every specific row before the catch-all that would also match (R71). -/
def opcodeTable : List OpcodeRow :=
  commandRows ++ registerRows ++ configRows ++ undefinedRows

/-- The mnemonic of the first row that covers the key (R61). -/
def tableMnemonic (key : BitVec 41) : Option String :=
  (opcodeTable.find? (fun r => r.covers key)).map OpcodeRow.mnemonic

/-- The mnemonic of an operation, as the table spells it. -/
def Instr.mnemonic : Instr → String
  | .cmdNop _ => "CMD.NOP"
  | .cmdStartEnc _ => "CMD.START_ENC"
  | .cmdStartDec _ => "CMD.START_DEC"
  | .cmdClr _ => "CMD.CLR"
  | .cmdReserved _ => "CMD.reserved"
  | .rdCmd => "RD.CMD"
  | .wrStatus _ => "WR.STATUS"
  | .rdStatus => "RD.STATUS"
  | .wrErr _ => "WR.ERR"
  | .rdErr => "RD.ERR"
  | .wrLen _ => "WR.LEN"
  | .rdLen => "RD.LEN"
  | .wrCnt _ => "WR.CNT"
  | .rdCnt => "RD.CNT"
  | .wrBlk _ => "WR.BLK"
  | .rdBlk => "RD.BLK"
  | .wrK0 _ => "WR.K0"
  | .rdK0 => "RD.K0"
  | .wrK1 _ => "WR.K1"
  | .rdK1 => "RD.K1"
  | .wrNonce _ => "WR.NONCE"
  | .rdNonce => "RD.NONCE"
  | .wrIv _ => "WR.IV"
  | .rdIv => "RD.IV"
  | .wrTagin _ => "WR.TAGIN"
  | .rdTagin => "RD.TAGIN"
  | .wrTagout _ => "WR.TAGOUT"
  | .rdTagout => "RD.TAGOUT"
  | .wrDin _ => "WR.DIN"
  | .rdDin => "RD.DIN"
  | .wrDout _ => "WR.DOUT"
  | .rdDout => "RD.DOUT"
  | .wrRcaddr _ => "WR.RCADDR"
  | .rdRcaddr => "RD.RCADDR"
  | .wrRcdata _ => "WR.RCDATA"
  | .rdRcdata => "RD.RCDATA"
  | .wrCfgField _ => "WR.CFG_FIELD"
  | .rdCfgField => "RD.CFG_FIELD"
  | .wrCfgW _ => "WR.CFG_W"
  | .rdCfgW => "RD.CFG_W"
  | .wrCfgRbig _ => "WR.CFG_RBIG"
  | .rdCfgRbig => "RD.CFG_RBIG"
  | .wrCfgRsmall _ => "WR.CFG_RSMALL"
  | .rdCfgRsmall => "RD.CFG_RSMALL"
  | .wrCfgRcoff _ => "WR.CFG_RCOFF"
  | .rdCfgRcoff => "RD.CFG_RCOFF"
  | .wrCfgRcdepth _ => "WR.CFG_RCDEPTH"
  | .rdCfgRcdepth => "RD.CFG_RCDEPTH"
  | .wrCfgMaxblk _ => "WR.CFG_MAXBLK"
  | .rdCfgMaxblk => "RD.CFG_MAXBLK"
  | .wrCfgSlot _ => "WR.CFG_SLOT"
  | .rdCfgSlot => "RD.CFG_SLOT"
  | .wrCfgMod _ => "WR.CFG_MOD"
  | .rdCfgMod => "RD.CFG_MOD"
  | .wrCfgRefillv _ => "WR.CFG_REFILLV"
  | .rdCfgRefillv => "RD.CFG_REFILLV"
  | .wrUndefined _ _ => "WR.undefined"
  | .rdUndefined _ => "RD.undefined"

/-- The transaction of a table word: the 41-bit key is the whole transaction of a port with `DW` = 32 (R60, R61). -/
def Transaction.ofTableWord (w : Nat) : Transaction :=
  Transaction.ofBits 32 w

/-- The operation the decoder reads from the `nbits`-bit word `w` of the opcode table (bit 40 is `we`, bits 39:32
`addr`, bits 31:0 `data`; R61); `none` where the decoder refuses. -/
def decodeTableWord (nbits w : Nat) : Option Instr :=
  if w < 2 ^ nbits then (decodeBits 32 w).toOption else none

end Sys2Proof
end

