-- ==== Sys2Proof/Machine/Memory.lean ====
section
/-! DEFINITION. The contents of `BUF` (R34, R42) as a list of (element index, element) pairs in one canonical form,
and its reads and writes (R43, R44). The unit is one element, which may be wider than a byte, so the cells are pairs of
naturals. -/

namespace Sys2Proof.Machine

/-- The contents of `BUF`: pairs of an element index and the element there. -/
abbrev Memory := List (Nat × Elt)

/-- What an unlisted cell reads as (R242: unspecified after reset, "a model may initialise `BUF` to zero"; R184 and
R198 write zero). DESIGN CHOICE, log 6. -/
def Memory.unlisted : Elt := 0

/-- `BUF[i]` (R43). -/
def Memory.read : Memory → Nat → Elt
  | [], _ => Memory.unlisted
  | c :: m, i => if i = c.1 then c.2 else Memory.read m i

/-- `m` with `BUF[i] = v` (R44), in canonical form: writing what an unlisted cell reads as removes the entry. -/
def Memory.write : Memory → Nat → Elt → Memory
  | [], i, v => if v = Memory.unlisted then [] else [(i, v)]
  | c :: m, i, v =>
    if i < c.1 then (if v = Memory.unlisted then c :: m else (i, v) :: c :: m)
    else if i = c.1 then (if v = Memory.unlisted then m else (i, v) :: m)
    else c :: Memory.write m i v

/-- `for every i < n: BufWrite(i, 0)` (R184, R198). -/
def Memory.zeroBelow (n : Nat) (m : Memory) : Memory :=
  m.filter (fun c => decide (n ≤ c.1))

/-- The canonical form: indices strictly rising, and no entry equal to what an unlisted cell reads as. -/
def Memory.wf : Memory → Bool
  | [] => true
  | c :: m => c.2 != Memory.unlisted && m.all (fun d => decide (c.1 < d.1)) && Memory.wf m

/-- Every listed cell is a cell of `BUF` and holds a canonical element (R34, R81). -/
def Memory.within (maxBlocks order : Nat) (m : Memory) : Bool :=
  m.all (fun c => decide (c.1 < maxBlocks ∧ c.2 < order))

/-- The contents `BUF` happens to have after a reset: those of `noise` that are cells of `BUF` and canonical elements
(R242, U1: any contents). -/
def Memory.ofNoise (maxBlocks order : Nat) (noise : List (Nat × Elt)) : Memory :=
  noise.foldl (fun m c => if c.1 < maxBlocks ∧ c.2 < order then m.write c.1 c.2 else m) []

end Sys2Proof.Machine
end

