-- ==== Sys2Proof/Machine/State.lean ====
section
/-! DEFINITION. The state of one engine instance (R10), with the configuration, the queue of actions to come and the
word of the latest read; the reasons a step can stop; the state after reset (R241). -/

namespace Sys2Proof.Machine

/-- `PHASE` (R23). Code 6 is never taken and has no member (U6). -/
inductive Phase where
  | idle
  | ks
  | roll
  | fin
  | done
  | fail
  | fatal
deriving DecidableEq, Repr

/-- `MODE` (R25): 0 encrypt, 1 decrypt. -/
inductive Mode where
  | encrypt
  | decrypt
deriving DecidableEq, Repr

/-- The DuplexState `S[0 .. 2]` (R16), also a `W`-tuple of elements (`W` = 3). -/
structure Duplex where
  s0 : Elt
  s1 : Elt
  s2 : Elt
deriving DecidableEq, Repr

/-- One atomic action of a run (R9, R53): a host transaction, a turn of the sequencer, or the reset event with the
contents `BUF` happens to hold after it (R242). -/
inductive Event where
  | host (t : Transaction)
  | engine
  | reset (noise : List (Nat × Elt))
deriving DecidableEq, Repr

/-- The complete state of one engine instance (R10), and the three fields of the model's own: `cfg` (log 1),
`inputs` (log 5), `rdata` (log 7). -/
structure State where
  /-- The configuration record of R6, ROM contents included. No step changes it. -/
  cfg : Config
  /-- `K0`, MasterKey[0] (R11). -/
  k0 : Elt
  /-- `K1`, MasterKey[1] (R11). -/
  k1 : Elt
  /-- `K0V` (R11). -/
  k0v : Bool
  /-- `K1V` (R11). -/
  k1v : Bool
  /-- `NONCE` (R12). -/
  nonce : Elt
  /-- `NV` (R12). -/
  nv : Bool
  /-- `IV` (R13). -/
  iv : Elt
  /-- `TAGIN` (R14). -/
  tagin : Elt
  /-- `TV` (R14). -/
  tv : Bool
  /-- `TAGOUT` (R15). -/
  tagout : Elt
  /-- `TAGV` (R15). -/
  tagv : Bool
  /-- `S` (R16). -/
  duplex : Duplex
  /-- `LEN` (R18). -/
  len : Ctl
  /-- `CNT` (R19). -/
  cnt : Nat
  /-- `RDP` (R20). -/
  rdp : Nat
  /-- `BLK` (R21). -/
  blk : Nat
  /-- `RND` (R22). -/
  rnd : Nat
  /-- `PHASE` (R23). -/
  phase : Phase
  /-- `MODE` (R25). -/
  mode : Mode
  /-- `AUTH_OK` (R25). -/
  authOk : Bool
  /-- `ERR` (R28). -/
  err : ErrWord
  /-- `RCADDR` (R30). -/
  rcaddr : Ctl
  /-- `BUF` (R34). -/
  buf : Memory
  /-- The actions to come, the next one first: the schedule of the run (R33, R203). -/
  inputs : List Event
  /-- The word the latest host read returned (R60). -/
  rdata : Nat
deriving DecidableEq, Repr

/-- Why the machine stops. No run from reset reaches any of these (R27, R47); each is safe: the model stops where the
spec gives no meaning to the access. -/
inductive Fault where
  /-- The sequencer reads a ROM index at or above `RC_DEPTH` (R46, R47). Raised by a round micro-step. Safe. -/
  | romOutOfRange
  /-- `BUF` is accessed at an index at or above `MAX_BLOCKS` (R43, R44). Raised by `ROLL-commit`, the `DOUT` read and
  the `DIN` write. Safe. -/
  | bufOutOfRange
  /-- `MASK_SLOT` names no slot of `S` (R7, V18). Raised by the commit micro-steps. Safe. -/
  | noSuchSlot
deriving DecidableEq, Repr

/-- Why the machine takes no meaning from an input. -/
inductive Refusal where
  /-- The instruction has no meaning in the model. Raised by an arm of `exec` alone; no arm does. Safe. -/
  | notModelled (mnemonic : String)
  /-- The next host action is no transaction of the port (R60). Raised by the fetch. Safe. -/
  | undecodable (why : DecodeError)
deriving DecidableEq, Repr

/-- The outcome of an operation of the machine. -/
abbrev Result := Host.Outcome State Fault Refusal

/-- The all-zero DuplexState. -/
def Duplex.zero : Duplex := ⟨0, 0, 0⟩

/-- The state after the reset event in a build `c` (R241): every register at the value of the rule's table, `PHASE` and
`ERR` by `CFG_OK` (bit 0 of `ERR` is `E_CFG`, R212), `BUF` as `noise` says (R242). -/
def State.resetOf (c : Config) (noise : List (Nat × Elt)) : State :=
  { cfg := c, k0 := 0, k1 := 0, k0v := false, k1v := false, nonce := 0, nv := false, iv := 1, tagin := 0, tv := false,
    tagout := 0, tagv := false, duplex := Duplex.zero, len := 0, cnt := 0, rdp := 0, blk := 0, rnd := 0,
    phase := if c.cfgOk then .idle else .fatal, mode := .encrypt, authOk := false,
    err := if c.cfgOk then 0 else 1, rcaddr := 0, buf := Memory.ofNoise c.maxBlocks c.field.order noise,
    inputs := [], rdata := 0 }

/-- The machine right after reset, as an instance of the reference build T101 with `BUF` all zero and no action
queued (logs 2, 5, 6, 7). -/
def State.reset : State :=
  State.resetOf Config.t101 []

end Sys2Proof.Machine
end

