-- ==== Sys2Proof/Machine/Permutation.lean ====
section
/-! DEFINITION. The round function (R88, R96, R97), the ROM (R46, R90) and the two permutations (R91 to R93). -/

namespace Sys2Proof.Machine

/-- `REF3` (R96). -/
def ref3 (f : FieldSpec) (s : Duplex) (rc : Elt) : Duplex :=
  let t := f.add s.s2 (f.mul s.s0 s.s1)
  { s0 := f.add t rc
    s1 := f.add (f.add s.s0 (f.mul rc (f.add s.s1 t))) rc
    s2 := f.add (f.add s.s1 t) rc }

/-- `REF3inv` (R97). -/
def ref3inv (f : FieldSpec) (s : Duplex) (rc : Elt) : Duplex :=
  let t := f.sub s.s0 rc
  let b := f.sub (f.sub s.s2 rc) t
  let a := f.sub (f.sub s.s1 rc) (f.mul rc (f.add b t))
  { s0 := a, s1 := b, s2 := f.sub t (f.mul a b) }

/-- A natural number as an index below `order`; a canonical representative is itself (log 14). -/
def toFin (order : Nat) (h : 0 < order) (a : Elt) : Fin order :=
  ⟨a % order, Nat.mod_lt a h⟩

/-- The `k`-th withheld round function on canonical representatives (R88; log 3). -/
def withheldRound (f : FieldSpec) (k : Nat) (s : Duplex) (rc : Elt) : Duplex :=
  if h : 0 < f.order then
    let r := Config.withheldRound f k f.order rc (toFin f.order h s.s0, toFin f.order h s.s1, toFin f.order h s.s2)
    { s0 := r.1.val, s1 := r.2.1.val, s2 := r.2.2.val }
  else s

/-- `ROUND(s, rc)` of the build (R88). -/
def roundOf (c : Config) (s : Duplex) (rc : Elt) : Duplex :=
  match c.round with
  | .ref3 => ref3 c.field s rc
  | .withheld k => withheldRound c.field k s rc

/-- `RomRead(i)` for `i < RC_DEPTH` (R46); no word beyond. -/
def romRead (c : Config) (i : Nat) : Option Elt :=
  c.rc[i]?

/-- `RC[i]`, for `i < RC_DEPTH`: what `RomRead(i)` returns (R46, R90). The pure functions below are used only where the
index is in range (R47, R91). -/
def romWord (c : Config) (i : Nat) : Elt :=
  (romRead c i).getD 0

/-- `Perm(base, count, s)`, for `base + count ≤ RC_DEPTH` (R91). -/
def perm (c : Config) (base : Nat) : Nat → Duplex → Duplex
  | 0, s => s
  | count + 1, s => roundOf c (perm c base count s) (romWord c (base + count))

/-- `Big(s)` (R92). -/
def big (c : Config) (s : Duplex) : Duplex :=
  perm c 0 c.rBig s

/-- `Small(s)` (R93). -/
def small (c : Config) (s : Duplex) : Duplex :=
  perm c c.rcOffset c.rSmall s

end Sys2Proof.Machine
end

