-- ==== Sys2Proof/Machine/Aead.lean ====
section
/-! DEFINITION. Key schedule, rolling function, encrypt and decrypt as pure functions (R110 to R119), and the number
of micro-steps of a session (R200). -/

namespace Sys2Proof.Machine

/-- `KS_LAYOUT(k0, k1, n, iv)` of the build (R112); a withheld layout yields canonical elements (R81; log 4). -/
def ksLayoutOf (c : Config) (k0 k1 nonce iv : Elt) : Duplex :=
  match c.ksLayout with
  | .noncePlusIv => { s0 := c.field.add nonce iv, s1 := k0, s2 := k1 }
  | .withheld k =>
    let r := Config.withheldLayout c.field k k0 k1 nonce iv
    { s0 := r.1 % c.field.order, s1 := r.2.1 % c.field.order, s2 := r.2.2 % c.field.order }

/-- `KeySchedule(k0, k1, n, iv)` (R111). -/
def keySchedule (c : Config) (k0 k1 nonce iv : Elt) : Duplex :=
  big c (ksLayoutOf c k0 k1 nonce iv)

/-- Slot `i` of a DuplexState, none where `i` is no slot. -/
def Duplex.slot (s : Duplex) : Nat → Option Elt
  | 0 => some s.s0
  | 1 => some s.s1
  | 2 => some s.s2
  | _ => none

/-- `s` with slot `i` holding `v`. -/
def Duplex.setSlot (s : Duplex) (i : Nat) (v : Elt) : Duplex :=
  match i with
  | 0 => { s with s0 := v }
  | 1 => { s with s1 := v }
  | 2 => { s with s2 := v }
  | _ => s

/-- `o[MASK_SLOT]`, for `MASK_SLOT < W` (R113). -/
def maskOf (c : Config) (o : Duplex) : Elt :=
  (o.slot c.maskSlot).getD 0

/-- `Refill(o)` (R114). -/
def refillOf (c : Config) (o : Duplex) : Duplex :=
  match c.refill with
  | .keep => o
  | .const v => o.setSlot c.maskSlot v

/-- `Advance(s) = (mask, next)` (R113). -/
def advance (c : Config) (s : Duplex) : Elt × Duplex :=
  (maskOf c (small c s), refillOf c (small c s))

/-- The trajectory: the DuplexState after `i` advances (R115). -/
def trajectory (c : Config) (s : Duplex) : Nat → Duplex
  | 0 => s
  | i + 1 => (advance c (trajectory c s i)).2

/-- The `i`-th mask of the trajectory from `s` (R115). -/
def maskAt (c : Config) (s : Duplex) (i : Nat) : Elt :=
  (advance c (trajectory c s i)).1

/-- A block with its mask: added to encrypt, subtracted to decrypt (R116, R117, R194). -/
def maskBlock (c : Config) (mode : Mode) (x mask : Elt) : Elt :=
  match mode with
  | .encrypt => c.field.add x mask
  | .decrypt => c.field.sub x mask

/-- Step 2 of `encrypt` and `decrypt`, the loop over the blocks: the masked blocks and the DuplexState after the last
(R116, R117, R120). -/
def maskBlocks (c : Config) (mode : Mode) : Duplex → List Elt → List Elt × Duplex
  | s, [] => ([], s)
  | s, x :: xs =>
    let a := advance c s
    let r := maskBlocks c mode a.2 xs
    (maskBlock c mode x a.1 :: r.1, r.2)

/-- `Encrypt(k0, k1, n, iv, M) = (C, T)` (R116). -/
def encrypt (c : Config) (k0 k1 nonce iv : Elt) (msg : List Elt) : List Elt × Elt :=
  let r := maskBlocks c .encrypt (keySchedule c k0 k1 nonce iv) msg
  (r.1, (advance c r.2).1)

/-- The one way `Decrypt` fails (R117). -/
inductive AuthFailure where
  | authenticationError
deriving DecidableEq, Repr

/-- `Decrypt(k0, k1, n, iv, C, T) = M`, or `AuthenticationError` (R117). -/
def decrypt (c : Config) (k0 k1 nonce iv : Elt) (ct : List Elt) (tag : Elt) : Except AuthFailure (List Elt) :=
  let r := maskBlocks c .decrypt (keySchedule c k0 k1 nonce iv) ct
  if (advance c r.2).1 = tag then .ok r.1 else .error .authenticationError

/-- `N_steps(L)`, the number of micro-steps of a session of `L` blocks (R200). -/
def nSteps (c : Config) (blocks : Nat) : Nat :=
  (c.rBig + 1) + blocks * (c.rSmall + 1) + (c.rSmall + 1)

end Sys2Proof.Machine
end

