-- ==== Sys2Proof/Machine/Flags.lean ====
section
/-! DEFINITION. Phase codes, the `BUSY` condition, the `STATUS` view (R23, R26) and the exception codes with their
bits of `ERR` (R28, R211). -/

namespace Sys2Proof.Machine

/-- The code of a phase in `STATUS[2:0]` (R23). -/
def Phase.code : Phase → Nat
  | .idle => 0
  | .ks => 1
  | .roll => 2
  | .fin => 3
  | .done => 4
  | .fail => 5
  | .fatal => 7

/-- `BUSY`: `PHASE` in {`KS`, `ROLL`, `FIN`} (R23). -/
def Phase.busy : Phase → Bool
  | .ks | .roll | .fin => true
  | .idle | .done | .fail | .fatal => false

/-- The value of the `MODE` bit (R25). -/
def Mode.bit : Mode → Bool
  | .encrypt => false
  | .decrypt => true

/-- The `STATUS` word (R26); the bits are disjoint, so the rule's OR is a sum, and bits 31:11 are 0. -/
def State.statusWord (s : State) : Nat :=
  s.phase.code + 2 ^ 3 * s.phase.busy.toNat + 2 ^ 4 * s.mode.bit.toNat + 2 ^ 5 * s.authOk.toNat + 2 ^ 6 * s.k0v.toNat +
    2 ^ 7 * s.k1v.toNat + 2 ^ 8 * s.nv.toNat + 2 ^ 9 * s.tv.toNat + 2 ^ 10 * s.tagv.toNat

/-- The `ERR` word, the sticky bits zero-extended (R28). -/
def State.errWord (s : State) : Nat :=
  s.err.toNat

/-- The nine exceptions (R211). -/
inductive Exc where
  /-- `E_CFG`, raised by reset (R212). -/
  | cfg
  /-- `E_AUTH`, raised by `FIN-commit-DEC-fail` (R213). -/
  | auth
  /-- `E_LEN`, raised by `START_ENC` and `START_DEC` (R214). -/
  | len
  /-- `E_CMD`, raised by a `CMD` write (R215). -/
  | cmd
  /-- `E_SEQ`, raised by any transaction (R216). -/
  | seq
  /-- `E_OPND`, raised by `START_ENC` and `START_DEC` (R217). -/
  | opnd
  /-- `E_RANGE`, raised by writes (R218). -/
  | range
  /-- `E_BUF`, raised by the `DIN` write and the `DOUT` read (R219). -/
  | buf
  /-- `E_ADDR`, raised by any transaction (R220). -/
  | addr
deriving DecidableEq, Repr

/-- The code of an exception, its bit number in `ERR` (R211). -/
def Exc.code : Exc → Nat
  | .cfg => 0
  | .auth => 1
  | .len => 2
  | .cmd => 3
  | .seq => 4
  | .opnd => 5
  | .range => 6
  | .buf => 7
  | .addr => 8

/-- `1 << bit` (R211). -/
def Exc.mask (e : Exc) : ErrWord :=
  1#9 <<< e.code

end Sys2Proof.Machine
end

