-- ==== Sys2Proof/Machine/Operands.lean ====
section
/-! DEFINITION. The register map (R62): kinds and directions of access, the phases in which each access is allowed
(R140, R58), the range of the value written (R66), and the register-specific tests of R140. -/

namespace Sys2Proof.Machine

/-- The registers of the map (R62). -/
inductive Reg where
  | cmd | status | err | len | cnt | blk
  | k0 | k1 | nonce | iv | tagin | tagout | din | dout
  | rcaddr | rcdata
  | cfgField | cfgW | cfgRbig | cfgRsmall | cfgRcoff | cfgRcdepth | cfgMaxblk | cfgSlot | cfgMod | cfgRefillv
deriving DecidableEq, Repr

/-- The kind of a register (R62): a 32-bit control word or one field element. -/
inductive RegKind where
  | ctl
  | elt
deriving DecidableEq, Repr

/-- What the host may do with a register at all (R62). -/
inductive Access where
  | writeOnly
  | readOnly
  | readWrite
deriving DecidableEq, Repr

/-- The column "kind" of R62. -/
def Reg.kind : Reg → RegKind
  | .cmd | .status | .err | .len | .cnt | .blk | .rcaddr => .ctl
  | .cfgField | .cfgW | .cfgRbig | .cfgRsmall | .cfgRcoff | .cfgRcdepth | .cfgMaxblk | .cfgSlot => .ctl
  | .k0 | .k1 | .nonce | .iv | .tagin | .tagout | .din | .dout | .rcdata | .cfgMod | .cfgRefillv => .elt

/-- The column "access" of R62. -/
def Reg.access : Reg → Access
  | .cmd | .k0 | .k1 | .din => .writeOnly
  | .len | .nonce | .iv | .tagin | .rcaddr => .readWrite
  | .status | .err | .cnt | .blk | .tagout | .dout | .rcdata => .readOnly
  | .cfgField | .cfgW | .cfgRbig | .cfgRsmall | .cfgRcoff | .cfgRcdepth => .readOnly
  | .cfgMaxblk | .cfgSlot | .cfgMod | .cfgRefillv => .readOnly

/-- The host may write the register (R62). -/
def Reg.writable (r : Reg) : Bool :=
  match r.access with
  | .writeOnly | .readWrite => true
  | .readOnly => false

/-- The host may read the register (R62). -/
def Reg.readable (r : Reg) : Bool :=
  match r.access with
  | .readOnly | .readWrite => true
  | .writeOnly => false

/-- The phase is one of `IDLE`, `DONE`, `FAIL`. -/
def Phase.settled : Phase → Bool
  | .idle | .done | .fail => true
  | .ks | .roll | .fin | .fatal => false

/-- The column "write phases" of R140, for a register other than `CMD` (a command has its own tests, R180). -/
def Reg.writePhase (r : Reg) (p : Phase) : Bool :=
  match r with
  | .k0 | .k1 | .din | .nonce | .iv | .tagin | .len => decide (p = .idle)
  | .rcaddr => p.settled
  | .cmd | .status | .err | .cnt | .blk | .tagout | .dout | .rcdata => false
  | .cfgField | .cfgW | .cfgRbig | .cfgRsmall | .cfgRcoff | .cfgRcdepth => false
  | .cfgMaxblk | .cfgSlot | .cfgMod | .cfgRefillv => false

/-- `STATUS`, `ERR` and the `CFG_*` registers, which can be read in every phase, `FATAL` included (R140, R143). -/
def Reg.alwaysReadable : Reg → Bool
  | .status | .err => true
  | .cfgField | .cfgW | .cfgRbig | .cfgRsmall | .cfgRcoff | .cfgRcdepth => true
  | .cfgMaxblk | .cfgSlot | .cfgMod | .cfgRefillv => true
  | .cmd | .len | .cnt | .blk | .k0 | .k1 | .nonce | .iv | .tagin | .tagout | .din | .dout | .rcaddr | .rcdata => false

/-- The column "read phases" of R140. -/
def Reg.readPhase (r : Reg) (p : Phase) : Bool :=
  match r with
  | .nonce | .iv | .tagin | .len | .rcaddr | .cnt | .blk | .tagout => decide (p ≠ .fatal)
  | .dout => decide (p = .done)
  | .rcdata => p.settled
  | .cmd | .k0 | .k1 | .din => false
  | .status | .err => true
  | .cfgField | .cfgW | .cfgRbig | .cfgRsmall | .cfgRcoff | .cfgRcdepth => true
  | .cfgMaxblk | .cfgSlot | .cfgMod | .cfgRefillv => true

/-- The data is in range for the register's kind: a control word below `2^32`, a canonical element (R66). -/
def Reg.inRange (r : Reg) (c : Config) (v : Nat) : Bool :=
  match r.kind with
  | .ctl => decide (v < 2 ^ 32)
  | .elt => c.field.canonical v

/-- The register-specific test of a write (R140 step 5): a full buffer refuses a push. -/
def Reg.writeTest (r : Reg) (s : State) : Option Exc :=
  match r with
  | .din => if s.cnt = s.cfg.maxBlocks then some .buf else none
  | _ => none

/-- The register-specific test of a read (R140 step 4): an empty buffer refuses a pop, an index beyond the ROM refuses
the ROM window. -/
def Reg.readTest (r : Reg) (s : State) : Option Exc :=
  match r with
  | .dout => if s.cnt ≤ s.rdp then some .buf else none
  | .rcdata => if s.cfg.rcDepth ≤ s.rcaddr.toNat then some .addr else none
  | _ => none

end Sys2Proof.Machine
end

