-- ==== Sys2Proof/Machine/Ops.lean ====
section
/-! DEFINITION. The shared operations: raising an exception and returning from one (R210, R223, R224), the reply to a
read, access to `BUF` (R43, R44), the reset event (R241), and the common procedures of a host write, a host read
(R140) and a command (R180). -/

namespace Sys2Proof.Machine

/-- `raise E_X` (R210, R223): set the bit of `ERR`, sticky, and nothing else. -/
def State.raise (s : State) (e : Exc) : State :=
  { s with err := s.err ||| e.mask }

/-- The word a host read returns (R60). -/
def State.reply (s : State) (v : Nat) : State :=
  { s with rdata := v }

/-- The return from exceptions, which is what an accepted `CLR` does (R184, R224): scrub the session, clear bits 1 to 8
of `ERR`, go to `IDLE`; `IV` and `RCADDR` are kept. -/
def State.clear (s : State) : State :=
  { s with
    k0 := 0, k1 := 0, k0v := false, k1v := false, nonce := 0, nv := false, tagin := 0, tv := false,
    tagout := 0, tagv := false, duplex := Duplex.zero, len := 0, cnt := 0, rdp := 0, blk := 0, rnd := 0,
    mode := .encrypt, authOk := false, buf := s.buf.zeroBelow s.cfg.maxBlocks, err := s.err &&& 0x001,
    phase := .idle }

/-- The reset event (R240, R241): every register at its reset value; the configuration, the queue and the word of the
latest read are not registers of the engine and stay (R243; logs 1, 5, 7). -/
def State.resetEvent (s : State) (noise : List (Nat × Elt)) : State :=
  { State.resetOf s.cfg noise with inputs := s.inputs, rdata := s.rdata }

/-- `BufRead(i)` (R43). -/
def bufRead (s : State) (i : Nat) : Option Elt :=
  if i < s.cfg.maxBlocks then some (s.buf.read i) else none

/-- `BufWrite(i, v)` (R44). -/
def bufWrite (s : State) (i : Nat) (v : Elt) : Option State :=
  if i < s.cfg.maxBlocks then some { s with buf := s.buf.write i v } else none

/-- A refused write: one bit of `ERR`, no other effect (R140, R210). -/
def refuseWrite (e : Exc) (s : State) : Result :=
  .next (s.raise e)

/-- A refused read: one bit of `ERR`, and the read returns 0 (R140, R210). -/
def refuseRead (e : Exc) (s : State) : Result :=
  .next ((s.raise e).reply 0)

/-- The procedure of a host write other than to `CMD` (R140), `none` standing for an undefined address: the first test
that fires decides; `commit` is the write of the register's own rule. -/
def hostWrite (r : Option Reg) (v : Nat) (commit : State → Result) (s : State) : Result :=
  if s.phase = .fatal then .next s
  else
    match r with
    | none => refuseWrite .addr s
    | some r =>
      if r.writable = false then refuseWrite .addr s
      else if r.writePhase s.phase = false then refuseWrite .seq s
      else if r.inRange s.cfg v = false then refuseWrite .range s
      else
        match r.writeTest s with
        | some e => refuseWrite e s
        | none => commit s

/-- `FATAL` hides the register: only `STATUS`, `ERR` and `CFG_*` return data there (R140, R143). -/
def hiddenInFatal (r : Option Reg) : Bool :=
  match r with
  | none => true
  | some r => !r.alwaysReadable

/-- The procedure of a host read (R140), `none` standing for an undefined address: the first test that fires decides, a
refused read returns 0; `value` is the read of the register's own rule. -/
def hostRead (r : Option Reg) (value : State → Result) (s : State) : Result :=
  if s.phase = .fatal ∧ hiddenInFatal r = true then .next (s.reply 0)
  else
    match r with
    | none => refuseRead .addr s
    | some r =>
      if r.readable = false then refuseRead .addr s
      else if r.readPhase s.phase = false then refuseRead .seq s
      else
        match r.readTest s with
        | some e => refuseRead e s
        | none => value s

/-- The read of a register that has no side effect (R50). -/
def plainRead (r : Reg) (v : State → Nat) (s : State) : Result :=
  hostRead (some r) (fun s => .next (s.reply (v s))) s

/-- The write of a register that is a plain store (R50). -/
def plainWrite (r : Reg) (v : Nat) (store : State → State) (s : State) : Result :=
  hostWrite (some r) v (fun s => .next (store s)) s

/-- The write of a register that is read-only: refused (R152). -/
def writeOfReadOnly (r : Reg) (v : Nat) (s : State) : Result :=
  hostWrite (some r) v (fun s => .next s) s

/-- The read of a register that is write-only: refused (R166). -/
def readOfWriteOnly (r : Reg) (s : State) : Result :=
  hostRead (some r) (fun s => .next s) s

/-- The procedure of a write to `CMD` (R180), `hi` the bits above the low 32 of the word: no effect in `FATAL`,
`E_RANGE` for a word of `2^32` or more, then the command. -/
def command (hi : Nat) (act : State → Result) (s : State) : Result :=
  if s.phase = .fatal then .next s
  else if hi ≠ 0 then refuseWrite .range s
  else act s

end Sys2Proof.Machine
end

