-- ==== Sys2Proof/Machine/Sequencer.lean ====
section
/-! DEFINITION. The sequencer: the micro-steps (R191 to R199), which of them is enabled (R190), and their iteration. -/

namespace Sys2Proof.Machine

/-- The micro-steps (R190). -/
inductive MicroStep where
  | ksRound
  | ksExit
  | rollRound
  | rollCommit
  | finRound
  | finCommitEnc
  | finCommitDecOk
  | finCommitDecFail
deriving DecidableEq, Repr

/-- The micro-step enabled in a state (R190). No row covers a round counter beyond its limit (R22 bounds it; log 13). -/
def enabledStep (s : State) : Option MicroStep :=
  match s.phase with
  | .ks =>
    if s.rnd < s.cfg.rBig then some .ksRound
    else if s.rnd = s.cfg.rBig then some .ksExit else none
  | .roll =>
    if s.rnd < s.cfg.rSmall then some .rollRound
    else if s.rnd = s.cfg.rSmall then some .rollCommit else none
  | .fin =>
    if s.rnd < s.cfg.rSmall then some .finRound
    else if s.rnd = s.cfg.rSmall then
      match s.mode with
      | .encrypt => some .finCommitEnc
      | .decrypt => if s.duplex.slot s.cfg.maskSlot = some s.tagin then some .finCommitDecOk else some .finCommitDecFail
    else none
  | .idle | .done | .fail | .fatal => none

/-- One round with the ROM word at `base + RND`: `S <- ROUND(S, RomRead(base + RND)); RND <- RND + 1` (R99). -/
def roundStep (base : Nat) (s : State) : Result :=
  match romRead s.cfg (base + s.rnd) with
  | none => .fault .romOutOfRange
  | some rc => .next { s with duplex := roundOf s.cfg s.duplex rc, rnd := s.rnd + 1 }

/-- `KS-round` (R191). -/
def ksRound (s : State) : Result :=
  roundStep 0 s

/-- `KS-exit` (R192). -/
def ksExit (s : State) : Result :=
  .next { s with rnd := 0, phase := if s.len.toNat = 0 then .fin else .roll }

/-- `ROLL-round` (R193). -/
def rollRound (s : State) : Result :=
  roundStep s.cfg.rcOffset s

/-- `ROLL-commit` (R194). -/
def rollCommit (s : State) : Result :=
  match s.duplex.slot s.cfg.maskSlot with
  | none => .fault .noSuchSlot
  | some m =>
    match bufRead s s.blk with
    | none => .fault .bufOutOfRange
    | some x =>
      match bufWrite s s.blk (maskBlock s.cfg s.mode x m) with
      | none => .fault .bufOutOfRange
      | some t =>
        .next { t with
          duplex := refillOf s.cfg s.duplex, blk := s.blk + 1, rnd := 0,
          phase := if s.blk + 1 = s.len.toNat then .fin else .roll }

/-- `FIN-round` (R195), identical to `ROLL-round`. -/
def finRound (s : State) : Result :=
  roundStep s.cfg.rcOffset s

/-- `Scrub()` (R199). -/
def State.scrub (s : State) : State :=
  { s with duplex := Duplex.zero, k0 := 0, k1 := 0, k0v := false, k1v := false, rnd := 0 }

/-- `FIN-commit-ENC` (R196). -/
def finCommitEnc (s : State) : Result :=
  match s.duplex.slot s.cfg.maskSlot with
  | none => .fault .noSuchSlot
  | some m => .next { State.scrub { s with tagout := m, tagv := true } with phase := .done }

/-- `FIN-commit-DEC-ok` (R197). -/
def finCommitDecOk (s : State) : Result :=
  .next { State.scrub { s with authOk := true } with phase := .done }

/-- `for every i < MAX_BLOCKS: BufWrite(i, 0)` (R184, R198). -/
def State.zeroBuf (s : State) : State :=
  { s with buf := s.buf.zeroBelow s.cfg.maxBlocks }

/-- `FIN-commit-DEC-fail` (R198, R213): the one exception a micro-step raises. -/
def finCommitDecFail (s : State) : Result :=
  match s.duplex.slot s.cfg.maskSlot with
  | none => .fault .noSuchSlot
  | some _ => .next { State.scrub (State.zeroBuf (s.raise .auth)) with phase := .fail }

/-- What a micro-step does. -/
def runStep (m : MicroStep) (s : State) : Result :=
  match m with
  | .ksRound => ksRound s
  | .ksExit => ksExit s
  | .rollRound => rollRound s
  | .rollCommit => rollCommit s
  | .finRound => finRound s
  | .finCommitEnc => finCommitEnc s
  | .finCommitDecOk => finCommitDecOk s
  | .finCommitDecFail => finCommitDecFail s

/-- A turn of the sequencer: the enabled micro-step, and nothing where none is enabled (R190, R233). -/
def microStep (s : State) : Result :=
  match enabledStep s with
  | none => .next s
  | some m => runStep m s

/-- `STEP n` (R69): `n` turns of the sequencer, stopping at a fault. -/
def microSteps : Nat → State → Result
  | 0, s => .next s
  | n + 1, s =>
    match microStep s with
    | .next t => microSteps n t
    | .fault r => .fault r
    | .refused r => .refused r

end Sys2Proof.Machine
end

