-- ==== Sys2Proof/Machine/Agents.lean ====
section
/-! DEFINITION. The fetch of the next atomic action: a host transaction decoded, a turn of the sequencer, or the reset
event (R9, R53). The engine itself fetches no instructions (R24): what is fetched is the host's next action. -/

namespace Sys2Proof.Machine

/-- The next action, and the state with it taken from the queue. -/
inductive Fetched where
  /-- A host transaction, decoded. -/
  | operation (i : Instr) (s : State)
  /-- A turn of the sequencer. -/
  | engineTurn (s : State)
  /-- The reset event. -/
  | resetNow (noise : List (Nat × Elt)) (s : State)
  /-- A host action that is no transaction of the port. -/
  | undecodable (why : DecodeError)
deriving DecidableEq, Repr

/-- The next action of the queue. Where the queue is empty the sequencer has its turn: an enabled micro-step is taken
eventually (R205), and a turn with none enabled changes nothing (log 5). -/
def fetch (s : State) : Fetched :=
  match s.inputs with
  | [] => .engineTurn s
  | .engine :: rest => .engineTurn { s with inputs := rest }
  | .reset noise :: rest => .resetNow noise { s with inputs := rest }
  | .host t :: rest =>
    match decode s.cfg.dw t with
    | .ok i => .operation i { s with inputs := rest }
    | .error why => .undecodable why

/-- The state with a host transaction as the next action. -/
def State.issue (s : State) (t : Transaction) : State :=
  { s with inputs := .host t :: s.inputs }

end Sys2Proof.Machine
end

