-- ==== Sys2Proof/Machine/Commands.lean ====
section
/-! DEFINITION. The meanings of the commands, the writes to `CMD` (R180 to R185). `hi` is the part of the word above
its low 32 bits (R61, R65 (b)). -/

namespace Sys2Proof.Machine

/-- The operands a session needs have been written (R182, R183, R217): the key and the nonce, and in decrypt mode the
tag. -/
def State.operandsValid (s : State) (mode : Mode) : Bool :=
  match mode with
  | .encrypt => s.k0v && s.k1v && s.nv
  | .decrypt => s.k0v && s.k1v && s.nv && s.tv

/-- The state an accepted `START_*` leaves (R182, R183). -/
def State.beginSession (s : State) (mode : Mode) : State :=
  { s with
    mode := mode, duplex := ksLayoutOf s.cfg s.k0 s.k1 s.nonce s.iv, blk := 0, rnd := 0, phase := .ks }

/-- `START_ENC` and `START_DEC` after the tests of R180, in the order of their tests (R182, R183). -/
def startSession (mode : Mode) (s : State) : Result :=
  if s.phase ≠ .idle then refuseWrite .seq s
  else if s.operandsValid mode = false then refuseWrite .opnd s
  else if s.cnt ≠ s.len.toNat then refuseWrite .len s
  else .next (s.beginSession mode)

/-- `CLR` after the tests of R180: refused while busy (R184). -/
def clearSession (s : State) : Result :=
  if s.phase.busy = true then refuseWrite .seq s else .next s.clear

/-- `CMD.NOP` (R181). -/
def execCmdNop (hi : Nat) (s : State) : Result :=
  command hi (fun s => .next s) s

/-- `CMD.START_ENC` (R182). -/
def execCmdStartEnc (hi : Nat) (s : State) : Result :=
  command hi (startSession .encrypt) s

/-- `CMD.START_DEC` (R183). -/
def execCmdStartDec (hi : Nat) (s : State) : Result :=
  command hi (startSession .decrypt) s

/-- `CMD.CLR` (R184). -/
def execCmdClr (hi : Nat) (s : State) : Result :=
  command hi clearSession s

/-- `CMD.reserved` (R185), in every phase but `FATAL`. -/
def execCmdReserved (data : Nat) (s : State) : Result :=
  command (data / 2 ^ 32) (refuseWrite .cmd) s

end Sys2Proof.Machine
end

