-- ==== Sys2Proof/Machine/Reads.lean ====
section
/-! DEFINITION. The meanings of the host reads (R153 to R166), each over the common procedure of R140. -/

namespace Sys2Proof.Machine

/-- `RD.CMD` (R166): a write-only register. -/
def execRdCmd (s : State) : Result :=
  readOfWriteOnly .cmd s

/-- `RD.STATUS` (R153). -/
def execRdStatus (s : State) : Result :=
  plainRead .status (fun s => s.statusWord) s

/-- `RD.ERR` (R154). -/
def execRdErr (s : State) : Result :=
  plainRead .err (fun s => s.errWord) s

/-- `RD.LEN` (R155). -/
def execRdLen (s : State) : Result :=
  plainRead .len (fun s => s.len.toNat) s

/-- `RD.CNT` (R156). -/
def execRdCnt (s : State) : Result :=
  plainRead .cnt (fun s => s.cnt) s

/-- `RD.BLK` (R157). -/
def execRdBlk (s : State) : Result :=
  plainRead .blk (fun s => s.blk) s

/-- `RD.K0` (R166): a write-only register. -/
def execRdK0 (s : State) : Result :=
  readOfWriteOnly .k0 s

/-- `RD.K1` (R166): a write-only register. -/
def execRdK1 (s : State) : Result :=
  readOfWriteOnly .k1 s

/-- `RD.NONCE` (R158). -/
def execRdNonce (s : State) : Result :=
  plainRead .nonce (fun s => s.nonce) s

/-- `RD.IV` (R159). -/
def execRdIv (s : State) : Result :=
  plainRead .iv (fun s => s.iv) s

/-- `RD.TAGIN` (R160). -/
def execRdTagin (s : State) : Result :=
  plainRead .tagin (fun s => s.tagin) s

/-- `RD.TAGOUT` (R161). -/
def execRdTagout (s : State) : Result :=
  plainRead .tagout (fun s => s.tagout) s

/-- `RD.DIN` (R166): a write-only register. -/
def execRdDin (s : State) : Result :=
  readOfWriteOnly .din s

/-- The pop of R162: `v <- BufRead(RDP); RDP <- RDP + 1; return v`. -/
def popElement (s : State) : Result :=
  match bufRead s s.rdp with
  | none => .fault .bufOutOfRange
  | some v => .next (State.reply { s with rdp := s.rdp + 1 } v)

/-- `RD.DOUT` (R162). -/
def execRdDout (s : State) : Result :=
  hostRead (some .dout) popElement s

/-- `RD.RCADDR` (R163). -/
def execRdRcaddr (s : State) : Result :=
  plainRead .rcaddr (fun s => s.rcaddr.toNat) s

/-- The word of the ROM window (R164); the test of R140 has already refused an index beyond the ROM. -/
def romWindow (s : State) : Result :=
  match romRead s.cfg s.rcaddr.toNat with
  | none => .fault .romOutOfRange
  | some v => .next (s.reply v)

/-- `RD.RCDATA` (R164). -/
def execRdRcdata (s : State) : Result :=
  hostRead (some .rcdata) romWindow s

/-- `RD.CFG_FIELD` (R165). -/
def execRdCfgField (s : State) : Result :=
  plainRead .cfgField (fun s => s.cfg.fieldWord) s

/-- `RD.CFG_W` (R165). -/
def execRdCfgW (s : State) : Result :=
  plainRead .cfgW (fun s => s.cfg.widthWord) s

/-- `RD.CFG_RBIG` (R165). -/
def execRdCfgRbig (s : State) : Result :=
  plainRead .cfgRbig (fun s => s.cfg.rBig) s

/-- `RD.CFG_RSMALL` (R165). -/
def execRdCfgRsmall (s : State) : Result :=
  plainRead .cfgRsmall (fun s => s.cfg.rSmall) s

/-- `RD.CFG_RCOFF` (R165). -/
def execRdCfgRcoff (s : State) : Result :=
  plainRead .cfgRcoff (fun s => s.cfg.rcOffset) s

/-- `RD.CFG_RCDEPTH` (R165). -/
def execRdCfgRcdepth (s : State) : Result :=
  plainRead .cfgRcdepth (fun s => s.cfg.rcDepth) s

/-- `RD.CFG_MAXBLK` (R165). -/
def execRdCfgMaxblk (s : State) : Result :=
  plainRead .cfgMaxblk (fun s => s.cfg.maxBlocks) s

/-- `RD.CFG_SLOT` (R165). -/
def execRdCfgSlot (s : State) : Result :=
  plainRead .cfgSlot (fun s => s.cfg.slotWord) s

/-- `RD.CFG_MOD` (R165). -/
def execRdCfgMod (s : State) : Result :=
  plainRead .cfgMod (fun s => s.cfg.modWord) s

/-- `RD.CFG_REFILLV` (R165). -/
def execRdCfgRefillv (s : State) : Result :=
  plainRead .cfgRefillv (fun s => s.cfg.refillWord) s

/-- `RD.undefined` (R166): whichever undefined address it is makes no difference. -/
def execRdUndefined (_addr : Addr) (s : State) : Result :=
  hostRead none (fun s => .next s) s

end Sys2Proof.Machine
end

