-- ==== Sys2Proof/Machine/Writes.lean ====
section
/-! DEFINITION. The meanings of the host writes other than to `CMD` (R144 to R152), each over the common procedure of
R140. -/

namespace Sys2Proof.Machine

/-! ## The writable registers -/

/-- `WR.K0` (R144). -/
def execWrK0 (data : Nat) (s : State) : Result :=
  plainWrite .k0 data (fun s => { s with k0 := data, k0v := true }) s

/-- `WR.K1` (R145). -/
def execWrK1 (data : Nat) (s : State) : Result :=
  plainWrite .k1 data (fun s => { s with k1 := data, k1v := true }) s

/-- `WR.NONCE` (R146). -/
def execWrNonce (data : Nat) (s : State) : Result :=
  plainWrite .nonce data (fun s => { s with nonce := data, nv := true }) s

/-- `WR.IV` (R147): no valid bit. -/
def execWrIv (data : Nat) (s : State) : Result :=
  plainWrite .iv data (fun s => { s with iv := data }) s

/-- `WR.TAGIN` (R148). -/
def execWrTagin (data : Nat) (s : State) : Result :=
  plainWrite .tagin data (fun s => { s with tagin := data, tv := true }) s

/-- `WR.LEN` (R149). -/
def execWrLen (data : Nat) (s : State) : Result :=
  plainWrite .len data (fun s => { s with len := BitVec.ofNat 32 data }) s

/-- `WR.RCADDR` (R151). -/
def execWrRcaddr (data : Nat) (s : State) : Result :=
  plainWrite .rcaddr data (fun s => { s with rcaddr := BitVec.ofNat 32 data }) s

/-- The push of R150: `BufWrite(CNT, v); CNT <- CNT + 1`. -/
def pushElement (data : Nat) (s : State) : Result :=
  match bufWrite s s.cnt data with
  | none => .fault .bufOutOfRange
  | some t => .next { t with cnt := s.cnt + 1 }

/-- `WR.DIN` (R150). -/
def execWrDin (data : Nat) (s : State) : Result :=
  hostWrite (some .din) data (pushElement data) s

/-! ## The read-only registers: every write is refused (R152) -/

/-- `WR.STATUS` (R152). -/
def execWrStatus (data : Nat) (s : State) : Result :=
  writeOfReadOnly .status data s

/-- `WR.ERR` (R152). -/
def execWrErr (data : Nat) (s : State) : Result :=
  writeOfReadOnly .err data s

/-- `WR.CNT` (R152). -/
def execWrCnt (data : Nat) (s : State) : Result :=
  writeOfReadOnly .cnt data s

/-- `WR.BLK` (R152). -/
def execWrBlk (data : Nat) (s : State) : Result :=
  writeOfReadOnly .blk data s

/-- `WR.TAGOUT` (R152). -/
def execWrTagout (data : Nat) (s : State) : Result :=
  writeOfReadOnly .tagout data s

/-- `WR.DOUT` (R152). -/
def execWrDout (data : Nat) (s : State) : Result :=
  writeOfReadOnly .dout data s

/-- `WR.RCDATA` (R152). -/
def execWrRcdata (data : Nat) (s : State) : Result :=
  writeOfReadOnly .rcdata data s

/-- `WR.CFG_FIELD` (R152). -/
def execWrCfgField (data : Nat) (s : State) : Result :=
  writeOfReadOnly .cfgField data s

/-- `WR.CFG_W` (R152). -/
def execWrCfgW (data : Nat) (s : State) : Result :=
  writeOfReadOnly .cfgW data s

/-- `WR.CFG_RBIG` (R152). -/
def execWrCfgRbig (data : Nat) (s : State) : Result :=
  writeOfReadOnly .cfgRbig data s

/-- `WR.CFG_RSMALL` (R152). -/
def execWrCfgRsmall (data : Nat) (s : State) : Result :=
  writeOfReadOnly .cfgRsmall data s

/-- `WR.CFG_RCOFF` (R152). -/
def execWrCfgRcoff (data : Nat) (s : State) : Result :=
  writeOfReadOnly .cfgRcoff data s

/-- `WR.CFG_RCDEPTH` (R152). -/
def execWrCfgRcdepth (data : Nat) (s : State) : Result :=
  writeOfReadOnly .cfgRcdepth data s

/-- `WR.CFG_MAXBLK` (R152). -/
def execWrCfgMaxblk (data : Nat) (s : State) : Result :=
  writeOfReadOnly .cfgMaxblk data s

/-- `WR.CFG_SLOT` (R152). -/
def execWrCfgSlot (data : Nat) (s : State) : Result :=
  writeOfReadOnly .cfgSlot data s

/-- `WR.CFG_MOD` (R152). -/
def execWrCfgMod (data : Nat) (s : State) : Result :=
  writeOfReadOnly .cfgMod data s

/-- `WR.CFG_REFILLV` (R152). -/
def execWrCfgRefillv (data : Nat) (s : State) : Result :=
  writeOfReadOnly .cfgRefillv data s

/-- `WR.undefined` (R152): the data is not examined; whichever undefined address it is makes no difference. -/
def execWrUndefined (_addr : Addr) (data : Nat) (s : State) : Result :=
  hostWrite none data (fun s => .next s) s

end Sys2Proof.Machine
end

