-- ==== Sys2Proof/Machine/Dispatch.lean ====
section
/-! DEFINITION. The dispatch: one arm per host operation. -/

namespace Sys2Proof.Machine

def exec (i : Instr) (s : State) : Host.Outcome State Fault Refusal :=
  match i with
  | .cmdNop hi => Sys2Proof.Machine.execCmdNop hi s
  | .cmdStartEnc hi => Sys2Proof.Machine.execCmdStartEnc hi s
  | .cmdStartDec hi => Sys2Proof.Machine.execCmdStartDec hi s
  | .cmdClr hi => Sys2Proof.Machine.execCmdClr hi s
  | .cmdReserved data => Sys2Proof.Machine.execCmdReserved data s
  | .rdCmd => Sys2Proof.Machine.execRdCmd s
  | .wrStatus data => Sys2Proof.Machine.execWrStatus data s
  | .rdStatus => Sys2Proof.Machine.execRdStatus s
  | .wrErr data => Sys2Proof.Machine.execWrErr data s
  | .rdErr => Sys2Proof.Machine.execRdErr s
  | .wrLen data => Sys2Proof.Machine.execWrLen data s
  | .rdLen => Sys2Proof.Machine.execRdLen s
  | .wrCnt data => Sys2Proof.Machine.execWrCnt data s
  | .rdCnt => Sys2Proof.Machine.execRdCnt s
  | .wrBlk data => Sys2Proof.Machine.execWrBlk data s
  | .rdBlk => Sys2Proof.Machine.execRdBlk s
  | .wrK0 data => Sys2Proof.Machine.execWrK0 data s
  | .rdK0 => Sys2Proof.Machine.execRdK0 s
  | .wrK1 data => Sys2Proof.Machine.execWrK1 data s
  | .rdK1 => Sys2Proof.Machine.execRdK1 s
  | .wrNonce data => Sys2Proof.Machine.execWrNonce data s
  | .rdNonce => Sys2Proof.Machine.execRdNonce s
  | .wrIv data => Sys2Proof.Machine.execWrIv data s
  | .rdIv => Sys2Proof.Machine.execRdIv s
  | .wrTagin data => Sys2Proof.Machine.execWrTagin data s
  | .rdTagin => Sys2Proof.Machine.execRdTagin s
  | .wrTagout data => Sys2Proof.Machine.execWrTagout data s
  | .rdTagout => Sys2Proof.Machine.execRdTagout s
  | .wrDin data => Sys2Proof.Machine.execWrDin data s
  | .rdDin => Sys2Proof.Machine.execRdDin s
  | .wrDout data => Sys2Proof.Machine.execWrDout data s
  | .rdDout => Sys2Proof.Machine.execRdDout s
  | .wrRcaddr data => Sys2Proof.Machine.execWrRcaddr data s
  | .rdRcaddr => Sys2Proof.Machine.execRdRcaddr s
  | .wrRcdata data => Sys2Proof.Machine.execWrRcdata data s
  | .rdRcdata => Sys2Proof.Machine.execRdRcdata s
  | .wrCfgField data => Sys2Proof.Machine.execWrCfgField data s
  | .rdCfgField => Sys2Proof.Machine.execRdCfgField s
  | .wrCfgW data => Sys2Proof.Machine.execWrCfgW data s
  | .rdCfgW => Sys2Proof.Machine.execRdCfgW s
  | .wrCfgRbig data => Sys2Proof.Machine.execWrCfgRbig data s
  | .rdCfgRbig => Sys2Proof.Machine.execRdCfgRbig s
  | .wrCfgRsmall data => Sys2Proof.Machine.execWrCfgRsmall data s
  | .rdCfgRsmall => Sys2Proof.Machine.execRdCfgRsmall s
  | .wrCfgRcoff data => Sys2Proof.Machine.execWrCfgRcoff data s
  | .rdCfgRcoff => Sys2Proof.Machine.execRdCfgRcoff s
  | .wrCfgRcdepth data => Sys2Proof.Machine.execWrCfgRcdepth data s
  | .rdCfgRcdepth => Sys2Proof.Machine.execRdCfgRcdepth s
  | .wrCfgMaxblk data => Sys2Proof.Machine.execWrCfgMaxblk data s
  | .rdCfgMaxblk => Sys2Proof.Machine.execRdCfgMaxblk s
  | .wrCfgSlot data => Sys2Proof.Machine.execWrCfgSlot data s
  | .rdCfgSlot => Sys2Proof.Machine.execRdCfgSlot s
  | .wrCfgMod data => Sys2Proof.Machine.execWrCfgMod data s
  | .rdCfgMod => Sys2Proof.Machine.execRdCfgMod s
  | .wrCfgRefillv data => Sys2Proof.Machine.execWrCfgRefillv data s
  | .rdCfgRefillv => Sys2Proof.Machine.execRdCfgRefillv s
  | .wrUndefined addr data => Sys2Proof.Machine.execWrUndefined addr data s
  | .rdUndefined addr => Sys2Proof.Machine.execRdUndefined addr s

end Sys2Proof.Machine
end

