-- ==== Sys2Proof/Machine/Step.lean ====
section
/-! DEFINITION. One step of the machine: the next atomic action of a run (R9, R53). -/

namespace Sys2Proof.Machine

/-- One atomic action: a host transaction, a turn of the sequencer, or the reset event. -/
def step (s : State) : Host.Outcome State Fault Refusal :=
  match fetch s with
  | .operation i t => exec i t
  | .engineTurn t => microStep t
  | .resetNow noise t => .next (t.resetEvent noise)
  | .undecodable why => .refused (.undecodable why)

/-- `s` with the host transaction of the opcode table's word `w` as its next action, so that the very next `step`
decodes and runs it (logs 5, 21). Nothing else is changed. -/
def State.withFetchWord (s : State) (_nbits w : Nat) : State :=
  s.issue (Transaction.ofTableWord w)

end Sys2Proof.Machine
end

