-- ==== Sys2Proof/Machine/Script.lean ====
section
/-! DEFINITION. Host scripts: the lines of R68 and R69 and the actions they stand for. `WAIT` and `RUN` repeat until
the state answers, so they are functions of the state and not fixed expansions. -/

namespace Sys2Proof.Machine

/-- The address of a register (R62). -/
def Reg.addr : Reg → Addr
  | .cmd => 0x00
  | .status => 0x01
  | .err => 0x02
  | .len => 0x03
  | .cnt => 0x04
  | .blk => 0x05
  | .k0 => 0x08
  | .k1 => 0x09
  | .nonce => 0x0A
  | .iv => 0x0B
  | .tagin => 0x0C
  | .tagout => 0x0D
  | .din => 0x0E
  | .dout => 0x0F
  | .rcaddr => 0x10
  | .rcdata => 0x11
  | .cfgField => 0x20
  | .cfgW => 0x21
  | .cfgRbig => 0x22
  | .cfgRsmall => 0x23
  | .cfgRcoff => 0x24
  | .cfgRcdepth => 0x25
  | .cfgMaxblk => 0x26
  | .cfgSlot => 0x27
  | .cfgMod => 0x2A
  | .cfgRefillv => 0x2B

/-- The command mnemonics (R64). -/
inductive CmdName where
  | nop
  | startEnc
  | startDec
  | clr
deriving DecidableEq, Repr

/-- The opcode of a command (R64). -/
def CmdName.op : CmdName → Nat
  | .nop => 0x00
  | .startEnc => 0x01
  | .startDec => 0x02
  | .clr => 0x03

/-- One line of a script (R68, R69). -/
inductive ScriptLine where
  /-- `WR <reg>, <value>` -/
  | wr (r : Reg) (v : Nat)
  /-- `RD <reg>` -/
  | rd (r : Reg)
  /-- `CMD <mnemonic>` -/
  | cmd (c : CmdName)
  /-- `PUSH <value>` -/
  | push (v : Nat)
  /-- `POP` -/
  | pop
  /-- `KEY <k0>, <k1>` -/
  | key (k0 k1 : Nat)
  /-- `STEP <n>` -/
  | step (n : Nat)
deriving DecidableEq, Repr

/-- A write of a named register as an action. -/
def writeEvent (r : Reg) (v : Nat) : Event :=
  .host (.wr r.addr v)

/-- A read of a named register as an action. -/
def readEvent (r : Reg) : Event :=
  .host (.rd r.addr)

/-- The actions a line stands for (R68, R69). -/
def ScriptLine.expand : ScriptLine → List Event
  | .wr r v => [writeEvent r v]
  | .rd r => [readEvent r]
  | .cmd c => [writeEvent .cmd c.op]
  | .push v => [writeEvent .din v]
  | .pop => [readEvent .dout]
  | .key k0 k1 => [writeEvent .k0 k0, writeEvent .k1 k1]
  | .step n => List.replicate n .engine

/-- The actions of a script. -/
def expandScript (lines : List ScriptLine) : List Event :=
  lines.flatMap ScriptLine.expand

/-- `RUN` (R69): turns of the sequencer until none is enabled, at most `fuel` of them. -/
def runSequencer : Nat → State → Result
  | 0, s => .next s
  | fuel + 1, s =>
    match enabledStep s with
    | none => .next s
    | some m =>
      match runStep m s with
      | .next t => runSequencer fuel t
      | .fault r => .fault r
      | .refused r => .refused r

/-- `n` steps of the machine, stopping at a fault or a refusal. -/
def stepN : Nat → State → Result
  | 0, s => .next s
  | n + 1, s =>
    match Sys2Proof.Machine.step s with
    | .next t => stepN n t
    | .fault r => .fault r
    | .refused r => .refused r

/-- `WAIT` (R69): `RD STATUS` until the word returned has bit 3 (`BUSY`) = 0, the sequencer taking one turn between two
polls, at most `fuel` polls (fairness, R205, bounds their number). -/
def waitIdle : Nat → State → Result
  | 0, s => .next s
  | fuel + 1, s =>
    match exec .rdStatus s with
    | .next t =>
      if t.rdata.testBit 3 then
        match microStep t with
        | .next u => waitIdle fuel u
        | .fault r => .fault r
        | .refused r => .refused r
      else .next t
    | .fault r => .fault r
    | .refused r => .refused r

/-- `digits` hexadecimal digits of `v`, the most significant first (R68). -/
def hexDigits : Nat → Nat → List Char
  | 0, _ => []
  | digits + 1, v =>
    ['0', '1', '2', '3', '4', '5', '6', '7', '8', '9', 'A', 'B', 'C', 'D', 'E', 'F'].getD (v / 16 ^ digits % 16) '0' ::
      hexDigits digits v

/-- The listing `we addr data` of a transaction on a port with a `dw`-bit data path (R68). -/
def listing (dw : Nat) (t : Transaction) : List Char :=
  (if t.we then '1' else '0') :: ' ' :: (hexDigits 2 t.addr.toNat ++ ' ' :: hexDigits ((dw + 3) / 4) t.data)

end Sys2Proof.Machine
end

