-- ==== Sys2Proof/Safety.lean ====
section
/-! DEFINITION. The terms the claims use: the invariant of reachable states (R27, R35), what the host can see (R228),
what a host transaction may change while a session runs (R141), and the sequence held in `BUF` (R42). -/

namespace Sys2Proof.Machine

/-- The first `n` elements of `BUF`, in index order (R42). -/
def State.sequence (s : State) (n : Nat) : List Elt :=
  (List.range n).map s.buf.read

/-- Every slot holds a canonical representative (R81). -/
def Duplex.canonical (f : FieldSpec) (d : Duplex) : Bool :=
  f.canonical d.s0 && f.canonical d.s1 && f.canonical d.s2

/-- Every element register, slot of `S` and cell of `BUF` holds a canonical representative (R81), `BUF` is in its
canonical form, and lists only cells that exist. -/
structure State.Canonical (s : State) : Prop where
  k0 : s.k0 < s.cfg.field.order
  k1 : s.k1 < s.cfg.field.order
  nonce : s.nonce < s.cfg.field.order
  iv : s.iv < s.cfg.field.order
  tagin : s.tagin < s.cfg.field.order
  tagout : s.tagout < s.cfg.field.order
  duplex : s.duplex.canonical s.cfg.field = true
  bufForm : s.buf.wf = true
  bufCells : s.buf.within s.cfg.maxBlocks s.cfg.field.order = true

/-- The bounds of the counters, none of which ever wraps (R21, R22, R27). -/
structure State.Bounded (s : State) : Prop where
  cnt : s.cnt ≤ s.cfg.maxBlocks
  rdp : s.rdp ≤ s.cnt
  rndIdle : s.phase.busy = false → s.rnd = 0
  rndKs : s.phase = .ks → s.rnd ≤ s.cfg.rBig
  rndRoll : s.phase = .roll → s.rnd ≤ s.cfg.rSmall
  rndFin : s.phase = .fin → s.rnd ≤ s.cfg.rSmall
  blkKs : s.phase = .ks → s.blk = 0
  blkRoll : s.phase = .roll → s.blk < s.len.toNat
  blkFin : s.phase = .fin → s.blk = s.len.toNat

/-- What holds in every reachable state of a build with `CFG_OK` true (R35, R15, R25). -/
structure State.Live (s : State) : Prop where
  /-- R35 (a) -/
  notFatal : s.phase ≠ .fatal
  /-- R35 (a) -/
  noCfgError : s.err.getLsbD Exc.cfg.code = false
  /-- R35 (c) -/
  busyOperands : s.phase.busy = true → s.k0v = true ∧ s.k1v = true ∧ s.nv = true ∧ s.len.toNat = s.cnt
  /-- R35 (d) -/
  busyTag : s.phase.busy = true → s.mode = .decrypt → s.tv = true
  /-- R35 (e) -/
  idle : s.phase = .idle →
    s.duplex = Duplex.zero ∧ s.blk = 0 ∧ s.tagv = false ∧ s.authOk = false ∧ s.mode = .encrypt ∧ s.rdp = 0
  /-- R35 (f) -/
  ended : s.phase = .done ∨ s.phase = .fail →
    s.duplex = Duplex.zero ∧ s.k0 = 0 ∧ s.k1 = 0 ∧ s.k0v = false ∧ s.k1v = false ∧ s.blk = s.len.toNat ∧
      s.len.toNat = s.cnt
  /-- R35 (g) -/
  failed : s.phase = .fail →
    s.mode = .decrypt ∧ s.err.getLsbD Exc.auth.code = true ∧ s.authOk = false ∧ ∀ i, s.buf.read i = 0
  /-- R35 (h) -/
  tagValid : s.tagv = true → s.phase = .done ∧ s.mode = .encrypt
  /-- R15 -/
  noTag : s.tagv = false → s.tagout = 0
  /-- R25 -/
  authentic : s.authOk = true ↔ s.phase = .done ∧ s.mode = .decrypt
  /-- R213: `E_AUTH` is set by the failing commit alone, and `CLR`, the way out of `FAIL`, clears it -/
  authError : s.err.getLsbD Exc.auth.code = true → s.phase = .fail
  /-- `RDP` moves in `DONE` alone (R162), and every way out of `DONE` zeroes it (R20) -/
  popsAfterDone : s.phase ≠ .done → s.rdp = 0
  /-- an operand not written since `CLR` or reset reads as 0 (R158) -/
  noNonce : s.nv = false → s.nonce = 0
  noTagin : s.tv = false → s.tagin = 0

/-- What holds in every reachable state of a build with `CFG_OK` false: `PHASE` = `FATAL`, `ERR` = 0x001, and every
other register at its reset value (R35, R143); `BUF`, the queue and the latest read aside. -/
def State.Dead (s : State) : Prop :=
  { s with buf := [], inputs := [], rdata := 0 } = State.resetOf s.cfg []

/-- The invariant of reachable states of an admissible build (R27, R35). -/
structure State.Inv (s : State) : Prop where
  build : s.cfg.admissible = true
  canonical : s.Canonical
  bounded : s.Bounded
  live : s.cfg.cfgOk = true → s.Live
  dead : s.cfg.cfgOk = false → s.Dead

/-- The state apart from `ERR`, the word of the latest read and the queue: all that a session is made of (R203). -/
def State.sessionPart (s : State) : State :=
  { s with err := 0, inputs := [], rdata := 0 }

/-- The state apart from its secrets: `K0`, `K1`, `S`, `RND`, and `BUF` unless results are released, which is in `DONE`
(R228). -/
def State.publicPart (s : State) : State :=
  { s with
    k0 := 0, k1 := 0, duplex := Duplex.zero, rnd := 0, buf := if s.phase = .done then s.buf else [] }

/-- The action is not the reset event, and if it is a host transaction it fits the port of a `dw`-bit data path. -/
def Event.sessionAction (dw : Nat) : Event → Bool
  | .host t => decide (t.data < 2 ^ dw)
  | .engine => true
  | .reset _ => false

/-- The number of turns of the sequencer in a list of actions. -/
def turns (es : List Event) : Nat :=
  es.countP (fun e => decide (e = .engine))

/-- The operations that read (R142). -/
def isRead : Instr → Bool
  | .cmdNop _ | .cmdStartEnc _ | .cmdStartDec _ | .cmdClr _ | .cmdReserved _ => false
  | .wrStatus _ | .wrErr _ | .wrLen _ | .wrCnt _ | .wrBlk _ | .wrK0 _ | .wrK1 _ | .wrNonce _ | .wrIv _ => false
  | .wrTagin _ | .wrTagout _ | .wrDin _ | .wrDout _ | .wrRcaddr _ | .wrRcdata _ => false
  | .wrCfgField _ | .wrCfgW _ | .wrCfgRbig _ | .wrCfgRsmall _ | .wrCfgRcoff _ | .wrCfgRcdepth _ => false
  | .wrCfgMaxblk _ | .wrCfgSlot _ | .wrCfgMod _ | .wrCfgRefillv _ | .wrUndefined _ _ => false
  | .rdCmd | .rdStatus | .rdErr | .rdLen | .rdCnt | .rdBlk | .rdK0 | .rdK1 | .rdNonce | .rdIv | .rdTagin => true
  | .rdTagout | .rdDin | .rdDout | .rdRcaddr | .rdRcdata => true
  | .rdCfgField | .rdCfgW | .rdCfgRbig | .rdCfgRsmall | .rdCfgRcoff | .rdCfgRcdepth | .rdCfgMaxblk => true
  | .rdCfgSlot | .rdCfgMod | .rdCfgRefillv | .rdUndefined _ => true

/-- The reads of `STATUS`, `ERR` and the `CFG_*` registers, which return data in every phase (R143). -/
def readsInFatal (i : Instr) : Bool :=
  decide (i ∈ ([.rdStatus, .rdErr, .rdCfgField, .rdCfgW, .rdCfgRbig, .rdCfgRsmall, .rdCfgRcoff, .rdCfgRcdepth,
    .rdCfgMaxblk, .rdCfgSlot, .rdCfgMod, .rdCfgRefillv] : List Instr))

end Sys2Proof.Machine
end

