-- ==== Sys2Proof/Certificates/Slice0/Obligations.lean ====
section
/-! DEFINITION. The statements for the provers, each `def Obligations.<Name> : Prop`, and the shapes several of them
share (namespace `Sys2Proof.Claims`). Exceptions are named by their bit of `ERR` (R211): 2 `E_LEN`, 3 `E_CMD`, 4 `E_SEQ`,
5 `E_OPND`, 6 `E_RANGE`, 7 `E_BUF`, 8 `E_ADDR`. -/

open Sys2Proof Sys2Proof.Machine

namespace Sys2Proof.Claims

/-! ## Shapes -/

/-- A refused write or command: one bit of `ERR` is set, nothing else changes (R210). -/
def raised (b : Nat) (s : State) : State :=
  { s with err := s.err ||| (1#9 <<< b) }

/-- A refused read: one bit of `ERR` is set and the read returns 0 (R210). -/
def readRefused (b : Nat) (s : State) : State :=
  { s with err := s.err ||| (1#9 <<< b), rdata := 0 }

/-- The operation raises no exception in `s`: with `ERR` clear beforehand, so that a raised bit shows, it leaves `ERR`
clear. -/
def raisesNothing (i : Instr) (s : State) : Prop :=
  ∃ u, exec i { s with err := 0 } = .next u ∧ u.err = 0

/-- A read that returns `v` and has no side effect. -/
def answered (v : Nat) (s : State) : State :=
  { s with rdata := v }

/-- The next host action is a transaction that decodes to `i`. -/
def hostOp (s : State) (i : Instr) : Prop :=
  ∃ t rest, s.inputs = .host t :: rest ∧ decode s.cfg.dw t = .ok i

/-- The next action is a turn of the sequencer (log 5: an empty queue gives it its turn). -/
def engineTurn (s : State) : Prop :=
  s.inputs = [] ∨ ∃ rest, s.inputs = .engine :: rest

/-- The machine takes the actions `evs`, in this order, from `s`, and is then in `t`. -/
def runs (s : State) (evs : List Event) (t : State) : Prop :=
  stepN evs.length { s with inputs := evs ++ s.inputs } = .next t

/-- The write of an element register that only `IDLE` admits: the order of tests is phase, then range (R140). -/
def elementWrite (i : Nat → Instr) (store : Nat → State → State) : Prop :=
  ∀ (s : State) (v : Nat),
    (s.phase = .idle → v < s.cfg.field.order → exec (i v) s = .next (store v s)) ∧
    (s.phase = .idle → s.cfg.field.order ≤ v → exec (i v) s = .next (raised 6 s)) ∧
    (s.phase ≠ .idle → s.phase ≠ .fatal → exec (i v) s = .next (raised 4 s)) ∧
    (s.phase = .fatal → exec (i v) s = .next s)

/-- The read of a register that every phase but `FATAL` admits (R140, R143). -/
def publicRead (i : Instr) (v : State → Nat) : Prop :=
  ∀ s : State,
    (s.phase ≠ .fatal → exec i s = .next (answered (v s) s)) ∧
    (s.phase = .fatal → exec i s = .next (answered 0 s))

/-- The writes to read-only registers and to undefined addresses (R152). -/
def readOnlyWrites (addr : Addr) (v : Nat) : List Instr :=
  [.wrStatus v, .wrErr v, .wrCnt v, .wrBlk v, .wrTagout v, .wrDout v, .wrRcdata v] ++
  [.wrCfgField v, .wrCfgW v, .wrCfgRbig v, .wrCfgRsmall v, .wrCfgRcoff v, .wrCfgRcdepth v] ++
  [.wrCfgMaxblk v, .wrCfgSlot v, .wrCfgMod v, .wrCfgRefillv v, .wrUndefined addr v]

/-- The reads of write-only registers and of undefined addresses (R166). -/
def writeOnlyReads (addr : Addr) : List Instr :=
  [.rdCmd, .rdK0, .rdK1, .rdDin, .rdUndefined addr]

/-- The code of a phase (the table of R23). -/
def phaseCode : Phase → Nat
  | .idle => 0
  | .ks => 1
  | .roll => 2
  | .fin => 3
  | .done => 4
  | .fail => 5
  | .fatal => 7

/-- `PHASE | BUSY<<3 | MODE<<4 | AUTH_OK<<5 | K0V<<6 | K1V<<7 | NV<<8 | TV<<9 | TAGV<<10` (R26). -/
def statusOf (s : State) : Nat :=
  phaseCode s.phase ||| (decide (s.phase = .ks ∨ s.phase = .roll ∨ s.phase = .fin)).toNat <<< 3 |||
    (decide (s.mode = .decrypt)).toNat <<< 4 ||| s.authOk.toNat <<< 5 ||| s.k0v.toNat <<< 6 ||| s.k1v.toNat <<< 7 |||
    s.nv.toNat <<< 8 ||| s.tv.toNat <<< 9 ||| s.tagv.toNat <<< 10

/-- `FW` (R6): `ceil(log2 p)`, or `n`. -/
def elementBits : FieldSpec → Nat
  | .prime p => Nat.clog 2 p
  | .binary n _ => n

/-- Bit 0 of `CFG_FIELD` (R31). -/
def familyBit : FieldSpec → Nat
  | .prime _ => 0
  | .binary _ _ => 1

/-- Bit 8 of `CFG_SLOT` (R31). -/
def refillBit : Refill → Nat
  | .keep => 0
  | .const _ => 1

/-- `CFG_REFILLV` (R31). -/
def refillValue : Refill → Nat
  | .keep => 0
  | .const v => v

/-- The ten `CFG_*` reads answer the words of the table of R31, with no side effect. -/
def configurationReads (s : State) : Prop :=
  exec .rdCfgField s = .next (answered (familyBit s.cfg.field ||| elementBits s.cfg.field <<< 16) s) ∧
  exec .rdCfgW s = .next (answered (s.cfg.w ||| s.cfg.wBig <<< 8 ||| s.cfg.wSmall <<< 16) s) ∧
  exec .rdCfgRbig s = .next (answered s.cfg.rBig s) ∧
  exec .rdCfgRsmall s = .next (answered s.cfg.rSmall s) ∧
  exec .rdCfgRcoff s = .next (answered s.cfg.rcOffset s) ∧
  exec .rdCfgRcdepth s = .next (answered s.cfg.rc.length s) ∧
  exec .rdCfgMaxblk s = .next (answered s.cfg.maxBlocks s) ∧
  exec .rdCfgSlot s = .next (answered (s.cfg.maskSlot ||| refillBit s.cfg.refill <<< 8) s) ∧
  (∀ p, s.cfg.field = .prime p → exec .rdCfgMod s = .next (answered p s)) ∧
  (∀ n poly, s.cfg.field = .binary n poly → ∃ v, exec .rdCfgMod s = .next (answered v s) ∧
    ∀ i, v.testBit i = (decide (i < n) && poly.testBit i)) ∧
  exec .rdCfgRefillv s = .next (answered (refillValue s.cfg.refill) s)

/-- A start command (R182, R183): `valid` is the test on the operands, `mode` what `MODE` becomes. The tests come in the
order phase, operands, length. -/
def startCommand (i : Instr) (mode : Mode) (valid : State → Bool) : Prop :=
  ∀ s : State,
    (s.phase = .idle → valid s = true → s.cnt = s.len.toNat →
      exec i s = .next
        { s with
          mode := mode, duplex := ksLayoutOf s.cfg s.k0 s.k1 s.nonce s.iv, blk := 0, rnd := 0, phase := .ks }) ∧
    (s.phase = .idle → valid s = false → exec i s = .next (raised 5 s)) ∧
    (s.phase = .idle → valid s = true → s.cnt ≠ s.len.toNat → exec i s = .next (raised 2 s)) ∧
    (s.phase ≠ .idle → s.phase ≠ .fatal → exec i s = .next (raised 4 s)) ∧
    (s.phase = .fatal → exec i s = .next s)

/-- The start command of a mode. -/
def startOf : Mode → Instr
  | .encrypt => .cmdStartEnc 0
  | .decrypt => .cmdStartDec 0

/-- The state registers of a session after its end: `S` and the key scrubbed, every block processed (R199, R202). -/
def ended (s : State) (mode : Mode) (phase : Phase) : State :=
  { s with
    mode := mode, phase := phase, duplex := ⟨0, 0, 0⟩, k0 := 0, k1 := 0, k0v := false, k1v := false, blk := s.cnt,
    rnd := 0 }

/-- Every element of the list is a canonical representative (R81). -/
def canonicalList (f : FieldSpec) (xs : List Elt) : Prop :=
  ∀ x ∈ xs, x < f.order

/-- The canonical DuplexStates (R81). -/
def states (f : FieldSpec) : Set Duplex :=
  { d | d.canonical f = true }

/-- The phases in which an address other than `CMD` may be written, none for what cannot be written (R140, R62). -/
def writePhases (a : Nat) : Option (List Phase) :=
  if a ∈ [0x03, 0x08, 0x09, 0x0A, 0x0B, 0x0C, 0x0E] then some [.idle]
  else if a = 0x10 then some [.idle, .done, .fail]
  else none

/-- The phases in which an address may be read, none for what cannot be read (R140, R62). -/
def readPhases (a : Nat) : Option (List Phase) :=
  if a ∈ [0x03, 0x04, 0x05, 0x0A, 0x0B, 0x0C, 0x0D, 0x10] then some [.idle, .ks, .roll, .fin, .done, .fail]
  else if a = 0x0F then some [.done]
  else if a = 0x11 then some [.idle, .done, .fail]
  else if a ∈ [0x01, 0x02, 0x20, 0x21, 0x22, 0x23, 0x24, 0x25, 0x26, 0x27, 0x2A, 0x2B] then
    some [.idle, .ks, .roll, .fin, .done, .fail, .fatal]
  else none

/-- The exception the first test of R140 that fires raises for a write, outside `FATAL` and other than to `CMD`. -/
def writeRefusal (s : State) (a v : Nat) : Option Nat :=
  match writePhases a with
  | none => some 8
  | some ps =>
    if s.phase ∉ ps then some 4
    else if (if a = 0x03 ∨ a = 0x10 then 2 ^ 32 else s.cfg.field.order) ≤ v then some 6
    else if a = 0x0E ∧ s.cnt = s.cfg.maxBlocks then some 7
    else none

/-- The exception the first test of R140 that fires raises for a read that `FATAL` does not hide. -/
def readRefusal (s : State) (a : Nat) : Option Nat :=
  match readPhases a with
  | none => some 8
  | some ps =>
    if s.phase ∉ ps then some 4
    else if a = 0x0F ∧ s.cnt ≤ s.rdp then some 7
    else if a = 0x11 ∧ s.cfg.rc.length ≤ s.rcaddr.toNat then some 8
    else none

/-- Two states that differ at most in the cells of `BUF` that no push since the last `CLR` or reset has written (R34). -/
def sameButUnwritten (s t : State) : Prop :=
  { s with buf := [] } = { t with buf := [] } ∧ ∀ i, i < s.cnt → s.buf.read i = t.buf.read i

/-- The writes of steps 2 to 5 of the session protocol (R245): the key, the nonce, an IV or none, a tag or none, and the
length. -/
def operandWrites (k0 k1 nonce : Elt) (iv tag : Option Elt) (length : Nat) : List Event :=
  [writeEvent .k0 k0, writeEvent .k1 k1, writeEvent .nonce nonce, writeEvent .len length] ++
    iv.toList.map (writeEvent .iv) ++ tag.toList.map (writeEvent .tagin)

/-- Steps 2 to 6 in any order among themselves (R245): the operand writes and the pushes, the pushes in sequence order. -/
def loadSequence (operands : List Event) (blocks : List Elt) (loads : List Event) : Prop :=
  loads.Perm (operands ++ blocks.map (writeEvent .din)) ∧ (blocks.map (writeEvent .din)).Sublist loads

/-- Step 8 of R245: the host polls `STATUS` while the sequencer takes its turns, all that the session needs and any
number more. -/
def waiting (turnsNeeded : Nat) (wait : List Event) : Prop :=
  (∀ e ∈ wait, e = .engine ∨ e = readEvent .status) ∧ turnsNeeded ≤ turns wait

/-- Step 12 of R245 from `t`: `CLR` is accepted and leaves `IDLE` with no error. -/
def clears (t : State) : Prop :=
  ∃ v, runs t [writeEvent .cmd 0x03] v ∧ v.phase = .idle ∧ v.err = 0

/-- Steps 10 to 12 of R245 from `t`: any sequence of pops and `TAGOUT` reads with at most as many pops as there are
elements of `xs` is accepted, a pop returns the next element, a `TAGOUT` read returns `tag`, and `CLR` is accepted
after it. The sequences include their own prefixes, so the last reply speaks for all. -/
def resultsReadable (t : State) (xs : List Elt) (tag : Elt) : Prop :=
  ∀ reads : List Event, (∀ e ∈ reads, e = readEvent .dout ∨ e = readEvent .tagout) →
    reads.count (readEvent .dout) ≤ xs.length →
    ∃ u, runs t reads u ∧ u.err = 0 ∧ clears u ∧
      (reads.getLast? = some (readEvent .dout) → xs[reads.count (readEvent .dout) - 1]? = some u.rdata) ∧
      (reads.getLast? = some (readEvent .tagout) → u.rdata = tag)

end Sys2Proof.Claims

open Sys2Proof.Claims

/-! ## Encoding, fetch, reset -/

/-- A few words of spec/opcode_table.json, written out bit by bit from R61 to R64, decode to their operations. -/
def Obligations.TableWordsDecode : Prop :=
  decodeTableWord 48 0x10000000001 = some (.cmdStartEnc 0) ∧
  decodeTableWord 48 0x10000000003 = some (.cmdClr 0) ∧
  decodeTableWord 48 0x10000000101 = some (.cmdReserved 0x101) ∧
  decodeTableWord 48 0x10800000003 = some (.wrK0 3) ∧
  decodeTableWord 48 0x10E0000000A = some (.wrDin 10) ∧
  decodeTableWord 48 0x11000000005 = some (.wrRcaddr 5) ∧
  decodeTableWord 48 0x00100000000 = some .rdStatus ∧
  decodeTableWord 48 0x02B00000000 = some .rdCfgRefillv ∧
  decodeTableWord 48 0x10600000000 = some (.wrUndefined 0x06 0) ∧
  decodeTableWord 48 0x0FF00000000 = some (.rdUndefined 0xFF)

/-- R60 to R65: on every port, decoding the encoding of a well-formed operation gives it back, as a record and as a bit
pattern of `9 + DW` bits. -/
def Obligations.DecodeInvertsEncode : Prop :=
  ∀ (dw : Nat) (i : Instr), 32 ≤ dw → i.wf dw = true →
    decode dw (encode i) = .ok i ∧ decodeBits dw (encodeBits dw i) = .ok i

/-- R65 (e): the decoder is total. Every transaction whose data fits the port is exactly one well-formed operation, which
encodes to it again (a read up to its ignored data field). That a record with data of more bits, which is no transaction
of the port, is rejected by name is the model's choice (log 20). -/
def Obligations.EveryTransactionDecodes : Prop :=
  ∀ (dw : Nat) (t : Transaction), 32 ≤ dw →
    (t.data < 2 ^ dw → ∃ i, decode dw t = .ok i ∧ i.wf dw = true ∧
      encode i = { t with data := if t.we = true then t.data else 0 }) ∧
    (2 ^ dw ≤ t.data → decode dw t = .error .dataTooWide)

/-- R61: which operation a transaction is depends only on its 41-bit key, and is that of the first row of the opcode
table with `(key & mask) = match`. -/
def Obligations.DecoderFollowsOpcodeTable : Prop :=
  ∀ (dw : Nat) (t : Transaction) (i : Instr), 32 ≤ dw → decode dw t = .ok i →
    tableMnemonic t.key = some i.mnemonic

/-- A step with a host transaction as the next action is the meaning of the decoded operation, with the action taken from
the queue. The queue is the model's (log 5). -/
def Obligations.StepRunsDecodedTransaction : Prop :=
  ∀ (s : State) (t : Transaction) (rest : List Event) (i : Instr),
    s.inputs = .host t :: rest → decode s.cfg.dw t = .ok i →
    step s = exec i { s with inputs := rest }

/-- R9 (2), R190, R205: a turn of the sequencer is a step of the machine, and an empty queue gives it its turn. The
queue is the model's (log 5). -/
def Obligations.StepGivesSequencerItsTurn : Prop :=
  ∀ (s : State) (rest : List Event),
    (s.inputs = .engine :: rest → step s = microStep { s with inputs := rest }) ∧
    (s.inputs = [] → step s = microStep s)

/-- R241: the state after the reset event, whatever was held before; what `STATUS`, `RCDATA` and the `CFG_*` registers
then read; and that it differs from the state after `CLR` only in `IV`, `RCADDR` and `BUF`. `cfg`, `inputs` and `rdata`
are the model's own fields (logs 1, 5, 7); that reset leaves the rest of the queue and the latest word is the model's
choice (log 22). `BUF` holds canonical elements (R242). -/
def Obligations.ResetEventSetsEveryRegister : Prop :=
  ∀ (s : State) (noise : List (Nat × Elt)) (rest : List Event), s.inputs = .reset noise :: rest →
    ∃ t, step s = .next t ∧
      { t with buf := [] } =
        { cfg := s.cfg, k0 := 0, k1 := 0, k0v := false, k1v := false, nonce := 0, nv := false, iv := 1, tagin := 0,
          tv := false, tagout := 0, tagv := false, duplex := ⟨0, 0, 0⟩, len := 0, cnt := 0, rdp := 0, blk := 0, rnd := 0,
          phase := if s.cfg.cfgOk = true then .idle else .fatal, mode := .encrypt, authOk := false,
          err := if s.cfg.cfgOk = true then 0x000 else 0x001, rcaddr := 0, buf := [], inputs := rest,
          rdata := s.rdata } ∧
      (0 < s.cfg.field.order → ∀ i, t.buf.read i < s.cfg.field.order) ∧
      exec .rdStatus t = .next (answered (if s.cfg.cfgOk = true then 0x000 else 0x007) t) ∧
      (s.cfg.cfgOk = true → ∀ w, s.cfg.rc[0]? = some w → exec .rdRcdata t = .next (answered w t)) ∧
      (s.cfg.cfgOk = false → exec .rdRcdata t = .next (answered 0 t)) ∧
      (s.cfg.admissible = true → configurationReads t) ∧
      (s.Inv → s.cfg.cfgOk = true → s.phase.busy = false → ∀ u, exec (.cmdClr 0) s = .next u →
        { t with iv := u.iv, rcaddr := u.rcaddr, buf := u.buf, inputs := u.inputs } = u)

/-- R242: after reset `BUF` may hold any canonical elements, what it held before among them. They come with the
reset event (log 6). -/
def Obligations.ResetLeavesAnyBufferContents : Prop :=
  ∀ (s : State) (m : Memory), m.wf = true → m.within s.cfg.maxBlocks s.cfg.field.order = true →
    ∃ noise, ∀ rest t, step { s with inputs := .reset noise :: rest } = .next t → t.buf = m

/-! ## Host writes -/

/-- R144, R145, R146, R148: `WR K0`, `WR K1`, `WR NONCE`, `WR TAGIN` store the element and set its valid bit. -/
def Obligations.OperandWritesStoreAndValidate : Prop :=
  elementWrite .wrK0 (fun v s => { s with k0 := v, k0v := true }) ∧
  elementWrite .wrK1 (fun v s => { s with k1 := v, k1v := true }) ∧
  elementWrite .wrNonce (fun v s => { s with nonce := v, nv := true }) ∧
  elementWrite .wrTagin (fun v s => { s with tagin := v, tv := true })

/-- R147, R13: `WR IV` stores the element and no valid bit; no other action than an accepted `WR IV` and reset changes
`IV`, and reset makes it 1. -/
def Obligations.IvChangesOnlyByWriteOrReset : Prop :=
  elementWrite .wrIv (fun v s => { s with iv := v }) ∧
  ∀ s t : State, step s = .next t →
    (∀ noise rest, s.inputs = .reset noise :: rest → t.iv = 1) ∧
    (t.iv = s.iv ∨
      (∃ v rest, s.inputs = .host (.wr 0x0B v) :: rest ∧ s.phase = .idle ∧ v < s.cfg.field.order ∧ t.iv = v) ∨
      ∃ noise rest, s.inputs = .reset noise :: rest)

/-- R149, R151: `WR LEN` in `IDLE`, `WR RCADDR` in `IDLE`, `DONE`, `FAIL`, each storing any 32-bit word and refusing a
wider one; and a `LEN` above `MAX_BLOCKS` makes every start command with its operands present raise `E_LEN`. -/
def Obligations.ControlRegisterWrites : Prop :=
  ∀ (s : State) (v : Nat),
    (s.phase = .idle → v < 2 ^ 32 → exec (.wrLen v) s = .next { s with len := BitVec.ofNat 32 v }) ∧
    (s.phase = .idle → 2 ^ 32 ≤ v → exec (.wrLen v) s = .next (raised 6 s)) ∧
    (s.phase ≠ .idle → s.phase ≠ .fatal → exec (.wrLen v) s = .next (raised 4 s)) ∧
    (s.phase = .fatal → exec (.wrLen v) s = .next s) ∧
    (s.phase = .idle ∨ s.phase = .done ∨ s.phase = .fail → v < 2 ^ 32 →
      exec (.wrRcaddr v) s = .next { s with rcaddr := BitVec.ofNat 32 v }) ∧
    (s.phase = .idle ∨ s.phase = .done ∨ s.phase = .fail → 2 ^ 32 ≤ v →
      exec (.wrRcaddr v) s = .next (raised 6 s)) ∧
    (s.phase = .ks ∨ s.phase = .roll ∨ s.phase = .fin → exec (.wrRcaddr v) s = .next (raised 4 s)) ∧
    (s.phase = .fatal → exec (.wrRcaddr v) s = .next s) ∧
    (∀ t m, s.phase = .idle → v < 2 ^ 32 → s.cnt ≤ s.cfg.maxBlocks → s.cfg.maxBlocks < v →
      s.operandsValid m = true → exec (.wrLen v) s = .next t → exec (startOf m) t = .next (raised 2 t))

/-- R150, R19: `WR DIN` stores the element in `BUF[CNT]` and counts it; no other cell and no other register changes. No
action but an accepted push raises `CNT`, by one, and only an accepted `CLR` and reset lower it, to 0: nothing else
un-pushes, a session least of all. -/
def Obligations.PushAppendsElement : Prop :=
  (∀ (s : State) (v : Nat), s.buf.wf = true →
    (s.phase = .idle → v < s.cfg.field.order → s.cnt < s.cfg.maxBlocks →
      ∃ t, exec (.wrDin v) s = .next t ∧ { t with buf := s.buf } = { s with cnt := s.cnt + 1 } ∧ t.buf.wf = true ∧
        ∀ j, t.buf.read j = if j = s.cnt then v else s.buf.read j) ∧
    (s.phase = .idle → v < s.cfg.field.order → s.cnt = s.cfg.maxBlocks → exec (.wrDin v) s = .next (raised 7 s)) ∧
    (s.phase = .idle → s.cfg.field.order ≤ v → exec (.wrDin v) s = .next (raised 6 s)) ∧
    (s.phase ≠ .idle → s.phase ≠ .fatal → exec (.wrDin v) s = .next (raised 4 s)) ∧
    (s.phase = .fatal → exec (.wrDin v) s = .next s)) ∧
  ∀ s t : State, step s = .next t →
    t.cnt = s.cnt ∨
    (∃ v, hostOp s (.wrDin v) ∧ s.phase = .idle ∧ v < s.cfg.field.order ∧ s.cnt ≠ s.cfg.maxBlocks ∧
      t.cnt = s.cnt + 1) ∨
    (hostOp s (.cmdClr 0) ∧ (s.phase = .idle ∨ s.phase = .done ∨ s.phase = .fail) ∧ t.cnt = 0) ∨
    (∃ noise rest, s.inputs = .reset noise :: rest ∧ t.cnt = 0)

/-- R152: a write to a read-only register or to an undefined address raises `E_ADDR` and changes nothing else, whatever
the data and the phase, `FATAL` aside, where it does nothing. -/
def Obligations.ReadOnlyWritesAreRefused : Prop :=
  ∀ (s : State) (addr : Addr) (v : Nat), ∀ i ∈ readOnlyWrites addr v,
    (s.phase ≠ .fatal → exec i s = .next (raised 8 s)) ∧ (s.phase = .fatal → exec i s = .next s)

/-! ## Host reads -/

/-- R153, R26, R154: in every phase `RD STATUS` returns the view of the nine fields, bits from 11 on being 0, and `RD ERR`
the sticky bits zero-extended; neither has a side effect. -/
def Obligations.StatusAndErrReads : Prop :=
  ∀ s : State,
    exec .rdStatus s = .next (answered (statusOf s) s) ∧ statusOf s < 2 ^ 11 ∧
    ∃ v, exec .rdErr s = .next (answered v s) ∧ v < 2 ^ 9 ∧ ∀ b, v.testBit b = s.err.getLsbD b

/-- R155 to R161, R163: the reads of `LEN`, `CNT`, `BLK`, `NONCE`, `IV`, `TAGIN`, `TAGOUT`, `RCADDR` return the register
in every phase but `FATAL`, 0 there, with no side effect; a nonce or tag not valid reads as 0; `BLK` never falls while
the sequencer runs. -/
def Obligations.PublicRegisterReads : Prop :=
  publicRead .rdLen (fun s => s.len.toNat) ∧ publicRead .rdCnt (fun s => s.cnt) ∧ publicRead .rdBlk (fun s => s.blk) ∧
  publicRead .rdNonce (fun s => s.nonce) ∧ publicRead .rdIv (fun s => s.iv) ∧ publicRead .rdTagin (fun s => s.tagin) ∧
  publicRead .rdTagout (fun s => s.tagout) ∧ publicRead .rdRcaddr (fun s => s.rcaddr.toNat) ∧
  (∀ s : State, s.Inv → s.nv = false → exec .rdNonce s = .next (answered 0 s)) ∧
  (∀ s : State, s.Inv → s.tagv = false → exec .rdTagout s = .next (answered 0 s)) ∧
  (∀ s t : State, microStep s = .next t → s.blk ≤ t.blk)

/-- R165, R31: the ten `CFG_*` reads return the configuration in every phase, `FATAL` included, with no side effect. -/
def Obligations.ConfigurationReads : Prop :=
  ∀ s : State, s.cfg.admissible = true → configurationReads s

/-- R166: a read of `CMD`, `K0`, `K1`, `DIN` or of an undefined address returns 0 and raises `E_ADDR`, whatever the
register holds; in `FATAL` it returns 0 and raises nothing. -/
def Obligations.WriteOnlyReadsAreRefused : Prop :=
  ∀ (s : State) (addr : Addr), ∀ i ∈ writeOnlyReads addr,
    (s.phase ≠ .fatal → exec i s = .next (readRefused 8 s)) ∧ (s.phase = .fatal → exec i s = .next (answered 0 s))

/-- R162: `RD DOUT` in `DONE` returns `BUF[RDP]` and advances `RDP`; at the end it raises `E_BUF`, in another phase
`E_SEQ`, returning 0 and not advancing. -/
def Obligations.PopReturnsNextElement : Prop :=
  ∀ s : State,
    (s.phase = .done → s.rdp < s.cnt → s.cnt ≤ s.cfg.maxBlocks →
      exec .rdDout s = .next { s with rdp := s.rdp + 1, rdata := s.buf.read s.rdp }) ∧
    (s.phase = .done → s.cnt ≤ s.rdp → exec .rdDout s = .next (readRefused 7 s)) ∧
    (s.phase ≠ .done → s.phase ≠ .fatal → exec .rdDout s = .next (readRefused 4 s)) ∧
    (s.phase = .fatal → exec .rdDout s = .next (answered 0 s))

/-- R164: `RD RCDATA` outside the busy phases returns `RC[RCADDR]`, or raises `E_ADDR` beyond the ROM; while busy it
raises `E_SEQ`; `RCADDR` is not changed. -/
def Obligations.RomWindowReads : Prop :=
  ∀ s : State,
    (s.phase = .idle ∨ s.phase = .done ∨ s.phase = .fail →
      (∀ w, s.cfg.rc[s.rcaddr.toNat]? = some w → exec .rdRcdata s = .next (answered w s)) ∧
      (s.cfg.rc.length ≤ s.rcaddr.toNat → exec .rdRcdata s = .next (readRefused 8 s))) ∧
    (s.phase = .ks ∨ s.phase = .roll ∨ s.phase = .fin → exec .rdRcdata s = .next (readRefused 4 s)) ∧
    (s.phase = .fatal → exec .rdRcdata s = .next (answered 0 s))

/-! ## Commands -/

/-- R180: the whole procedure of a write to `CMD`, at the level of the transaction: `FATAL`, then `E_RANGE`, then
`E_CMD`, then the dispatch on the opcode. -/
def Obligations.CommandProcedure : Prop :=
  ∀ (s : State) (v : Nat) (i : Instr), decode s.cfg.dw (.wr 0x00 v) = .ok i →
    exec i s =
      if s.phase = .fatal then .next s
      else if 2 ^ 32 ≤ v then .next (raised 6 s)
      else if v / 2 ^ 8 ≠ 0 ∨ 0x04 ≤ v % 2 ^ 8 then .next (raised 3 s)
      else
        match v % 2 ^ 8 with
        | 0 => exec (.cmdNop 0) s
        | 1 => exec (.cmdStartEnc 0) s
        | 2 => exec (.cmdStartDec 0) s
        | _ => exec (.cmdClr 0) s

/-- R181: `NOP` does nothing, in every phase. -/
def Obligations.NopChangesNothing : Prop :=
  ∀ s : State, exec (.cmdNop 0) s = .next s

/-- R182, R183: `START_ENC` and `START_DEC`. The latter also needs the tag written; the former ignores `TAGIN` and `TV`.
With the default layout the state loaded is `(NONCE + IV, K0, K1)` (R112). -/
def Obligations.StartCommandsLoadKeySchedule : Prop :=
  startCommand (.cmdStartEnc 0) .encrypt (fun s => s.k0v && s.k1v && s.nv) ∧
  startCommand (.cmdStartDec 0) .decrypt (fun s => s.k0v && s.k1v && s.nv && s.tv) ∧
  ∀ (c : Config) (k0 k1 n iv : Elt), c.ksLayout = .noncePlusIv →
    ksLayoutOf c k0 k1 n iv = ⟨c.field.add n iv, k0, k1⟩

/-- R184: `CLR` zeroes every session register, the flags and `BUF`, keeps `ERR` bit 0, `IV` and `RCADDR`, and goes to
`IDLE`, after which `STATUS` reads 0; while busy it raises `E_SEQ`. -/
def Obligations.ClearScrubsSession : Prop :=
  ∀ s : State,
    (s.phase = .idle ∨ s.phase = .done ∨ s.phase = .fail →
      ∃ t, exec (.cmdClr 0) s = .next t ∧
        { t with buf := s.buf } =
          { s with
            k0 := 0, k1 := 0, k0v := false, k1v := false, nonce := 0, nv := false, tagin := 0, tv := false, tagout := 0,
            tagv := false, duplex := ⟨0, 0, 0⟩, len := 0, cnt := 0, rdp := 0, blk := 0, rnd := 0, mode := .encrypt,
            authOk := false, err := s.err &&& 0x001, phase := .idle } ∧
        (∀ j, t.buf.read j = if j < s.cfg.maxBlocks then 0 else s.buf.read j) ∧
        exec .rdStatus t = .next (answered 0 t) ∧ (s.Inv → t.err = 0)) ∧
    (s.phase = .ks ∨ s.phase = .roll ∨ s.phase = .fin → exec (.cmdClr 0) s = .next (raised 4 s)) ∧
    (s.phase = .fatal → exec (.cmdClr 0) s = .next s)

/-- R185: a reserved command word raises `E_CMD` and changes nothing else, busy or not; in `FATAL` it does nothing. -/
def Obligations.ReservedCommandsAreRefused : Prop :=
  ∀ (s : State) (v : Nat), v < 2 ^ 32 → (v / 2 ^ 8 ≠ 0 ∨ 0x04 ≤ v % 2 ^ 8) →
    decode s.cfg.dw (.wr 0x00 v) = .ok (.cmdReserved v) ∧
    (s.phase ≠ .fatal → exec (.cmdReserved v) s = .next (raised 3 s)) ∧
    (s.phase = .fatal → exec (.cmdReserved v) s = .next s)

/-! ## The sequencer -/

/-- R190: the table of enabled micro-steps, which is a table for every state; a busy state of the machine enables exactly
one, which neither faults nor raises unless it is `FIN-commit-DEC-fail`; no other state has a step. -/
def Obligations.EnabledStepTable : Prop :=
  ∀ s : State,
    (enabledStep s = some .ksRound ↔ s.phase = .ks ∧ s.rnd < s.cfg.rBig) ∧
    (enabledStep s = some .ksExit ↔ s.phase = .ks ∧ s.rnd = s.cfg.rBig) ∧
    (enabledStep s = some .rollRound ↔ s.phase = .roll ∧ s.rnd < s.cfg.rSmall) ∧
    (enabledStep s = some .rollCommit ↔ s.phase = .roll ∧ s.rnd = s.cfg.rSmall) ∧
    (enabledStep s = some .finRound ↔ s.phase = .fin ∧ s.rnd < s.cfg.rSmall) ∧
    (enabledStep s = some .finCommitEnc ↔ s.phase = .fin ∧ s.rnd = s.cfg.rSmall ∧ s.mode = .encrypt) ∧
    (enabledStep s = some .finCommitDecOk ↔
      s.phase = .fin ∧ s.rnd = s.cfg.rSmall ∧ s.mode = .decrypt ∧ s.duplex.slot s.cfg.maskSlot = some s.tagin) ∧
    (enabledStep s = some .finCommitDecFail ↔
      s.phase = .fin ∧ s.rnd = s.cfg.rSmall ∧ s.mode = .decrypt ∧ s.duplex.slot s.cfg.maskSlot ≠ some s.tagin) ∧
    (s.Inv → s.phase.busy = true → ∃ m t, enabledStep s = some m ∧ microStep s = .next t ∧
      (m ≠ .finCommitDecFail → t.err = s.err) ∧
      (m = .finCommitDecFail → t.err = s.err ||| 0x002)) ∧
    (s.phase.busy = false → enabledStep s = none ∧ microStep s = .next s)

/-- R191, R192, R193, R195: one round per micro-step with the ROM word at `RND` or at `RC_OFFSET + RND`, and nothing else
changes; `R_BIG` of them compute `Big`, `R_SMALL` of them `Small`; `KS-exit` goes to `FIN` for an empty sequence, to
`ROLL` otherwise, `BLK` being 0 there. -/
def Obligations.RoundAndExitMicroSteps : Prop :=
  ∀ s : State,
    (∀ rc, s.phase = .ks → s.rnd < s.cfg.rBig → s.cfg.rc[s.rnd]? = some rc →
      microStep s = .next { s with duplex := roundOf s.cfg s.duplex rc, rnd := s.rnd + 1 }) ∧
    (∀ rc, s.phase = .roll ∨ s.phase = .fin → s.rnd < s.cfg.rSmall → s.cfg.rc[s.cfg.rcOffset + s.rnd]? = some rc →
      microStep s = .next { s with duplex := roundOf s.cfg s.duplex rc, rnd := s.rnd + 1 }) ∧
    (s.phase = .ks → s.rnd = 0 → s.cfg.rBig ≤ s.cfg.rc.length →
      microSteps s.cfg.rBig s = .next { s with duplex := big s.cfg s.duplex, rnd := s.cfg.rBig }) ∧
    (s.phase = .roll ∨ s.phase = .fin → s.rnd = 0 → s.cfg.rcOffset + s.cfg.rSmall ≤ s.cfg.rc.length →
      microSteps s.cfg.rSmall s = .next { s with duplex := small s.cfg s.duplex, rnd := s.cfg.rSmall }) ∧
    (s.phase = .ks → s.rnd = s.cfg.rBig → s.len.toNat = 0 →
      microStep s = .next { s with rnd := 0, phase := .fin }) ∧
    (s.phase = .ks → s.rnd = s.cfg.rBig → s.len.toNat ≠ 0 →
      microStep s = .next { s with rnd := 0, phase := .roll }) ∧
    (s.Inv → s.phase = .ks → s.blk = 0)

/-- R194: `ROLL-commit` masks `BUF[BLK]` and no other cell, refills the mask slot, counts the block, and ends the last
block in `FIN`. -/
def Obligations.RollCommitMasksBlock : Prop :=
  ∀ (s : State) (m : Elt), s.phase = .roll → s.rnd = s.cfg.rSmall → s.buf.wf = true → s.blk < s.cfg.maxBlocks →
    s.duplex.slot s.cfg.maskSlot = some m →
    ∃ t, microStep s = .next t ∧
      { t with buf := s.buf } =
        { s with
          duplex := match s.cfg.refill with
            | .keep => s.duplex
            | .const v => s.duplex.setSlot s.cfg.maskSlot v,
          blk := s.blk + 1, rnd := 0, phase := if s.blk + 1 = s.len.toNat then .fin else .roll } ∧
      t.buf.wf = true ∧
      (s.mode = .encrypt →
        ∀ j, t.buf.read j = if j = s.blk then s.cfg.field.add (s.buf.read s.blk) m else s.buf.read j) ∧
      (s.mode = .decrypt →
        ∀ j, t.buf.read j = if j = s.blk then s.cfg.field.sub (s.buf.read s.blk) m else s.buf.read j)

/-- R196 to R199: the three commits that end a session, each with its scrub; the failing one zeroes `BUF` and raises
`E_AUTH`. -/
def Obligations.FinCommitsEndSession : Prop :=
  ∀ (s : State) (m : Elt), s.phase = .fin → s.rnd = s.cfg.rSmall → s.duplex.slot s.cfg.maskSlot = some m →
    (s.mode = .encrypt → microStep s = .next
      { s with
        tagout := m, tagv := true, duplex := ⟨0, 0, 0⟩, k0 := 0, k1 := 0, k0v := false, k1v := false, rnd := 0,
        phase := .done }) ∧
    (s.mode = .decrypt → m = s.tagin → microStep s = .next
      { s with
        authOk := true, duplex := ⟨0, 0, 0⟩, k0 := 0, k1 := 0, k0v := false, k1v := false, rnd := 0, phase := .done }) ∧
    (s.mode = .decrypt → m ≠ s.tagin → ∃ t, microStep s = .next t ∧
      { t with buf := s.buf } =
        { s with
          err := s.err ||| 0x002, duplex := ⟨0, 0, 0⟩, k0 := 0, k1 := 0, k0v := false, k1v := false, rnd := 0,
          phase := .fail } ∧
      ∀ j, t.buf.read j = if j < s.cfg.maxBlocks then 0 else s.buf.read j)

/-! ## The whole machine -/

/-- R27, R35: every step keeps the invariant of reachable states, from every state that has it. -/
def Obligations.StepKeepsInvariant : Prop :=
  ∀ s t : State, s.Inv → step s = .next t → t.Inv

/-- R35, R241: the state after reset of an admissible build has the invariant, whatever `BUF` holds (R242); so does
`State.reset`, which is the reference build T101 (log 2). -/
def Obligations.ResetMeetsInvariant : Prop :=
  (∀ (c : Config) (noise : List (Nat × Elt)), c.admissible = true → (State.resetOf c noise).Inv) ∧ State.reset.Inv

/-- R47, R225: no access is out of range. Every operation and every turn of the sequencer completes with a next state,
and so does a step, but for a host action that is no transaction of the port (log 20). -/
def Obligations.NothingFaults : Prop :=
  ∀ s : State, s.Inv →
    (∀ i, ∃ t, exec i s = .next t) ∧ (∃ t, microStep s = .next t) ∧
    ((∃ t, step s = .next t) ∨
      ∃ tr rest, s.inputs = .host tr :: rest ∧ 2 ^ s.cfg.dw ≤ tr.data ∧ step s = .refused (.undecodable .dataTooWide))

/-- R6, R46, R243: no action changes the configuration or the ROM, reset included. That the actions to come are a queue
of State, taken in order, which reset leaves, is the model's choice (logs 5, 22). -/
def Obligations.ConfigurationNeverChanges : Prop :=
  ∀ s t : State, step s = .next t → t.cfg = s.cfg ∧ t.inputs = s.inputs.tail

/-- R201: all the transitions of `PHASE`, with what takes each. The queue the actions come from is the model's (log 5). -/
def Obligations.PhaseChangesFollowGraph : Prop :=
  ∀ s t : State, step s = .next t →
    t.phase = s.phase ∨
    (∃ noise rest, s.inputs = .reset noise :: rest ∧ t.phase = if s.cfg.cfgOk = true then .idle else .fatal) ∨
    (hostOp s (.cmdStartEnc 0) ∧ s.phase = .idle ∧ t.phase = .ks) ∨
    (hostOp s (.cmdStartDec 0) ∧ s.phase = .idle ∧ t.phase = .ks) ∨
    (hostOp s (.cmdClr 0) ∧ (s.phase = .done ∨ s.phase = .fail) ∧ t.phase = .idle) ∨
    (engineTurn s ∧
      ((enabledStep s = some .ksExit ∧ s.phase = .ks ∧ s.len.toNat ≠ 0 ∧ t.phase = .roll) ∨
       (enabledStep s = some .ksExit ∧ s.phase = .ks ∧ s.len.toNat = 0 ∧ t.phase = .fin) ∨
       (enabledStep s = some .rollCommit ∧ s.phase = .roll ∧ s.blk + 1 = s.len.toNat ∧ t.phase = .fin) ∨
       (enabledStep s = some .finCommitEnc ∧ s.phase = .fin ∧ t.phase = .done) ∨
       (enabledStep s = some .finCommitDecOk ∧ s.phase = .fin ∧ t.phase = .done) ∨
       (enabledStep s = some .finCommitDecFail ∧ s.phase = .fin ∧ t.phase = .fail)))

/-- R141: while the sequencer runs, every write but `NOP` is refused, the writable registers and the defined commands with
`E_SEQ`, the reserved ones with `E_CMD`; no host transaction changes anything but a bit of `ERR` and what a read returns;
and no micro-step reads `ERR`. -/
def Obligations.BusyHostChangesOnlyErr : Prop :=
  ∀ s : State, s.phase.busy = true →
    (∀ v, ∀ i ∈ [Instr.wrK0 v, .wrK1 v, .wrNonce v, .wrIv v, .wrTagin v, .wrLen v, .wrDin v, .wrRcaddr v, .cmdStartEnc 0,
      .cmdStartDec 0, .cmdClr 0], exec i s = .next (raised 4 s)) ∧
    (∀ v, v < 2 ^ 32 → (v / 2 ^ 8 ≠ 0 ∨ 0x04 ≤ v % 2 ^ 8) → exec (.cmdReserved v) s = .next (raised 3 s)) ∧
    (∀ i t, exec i s = .next t → isRead i = false → i ≠ .cmdNop 0 → ∃ b, 2 ≤ b ∧ b ≤ 8 ∧ t = raised b s) ∧
    (∀ i t, exec i s = .next t → t = { s with err := t.err, rdata := t.rdata } ∧ s.err &&& t.err = s.err) ∧
    (∀ e t, microStep s = .next t → ∃ e', microStep { s with err := e } = .next { t with err := e' })

/-- R142: a read changes at most `RDP`, by one, and only an accepted `DOUT` read does; or one bit of `ERR`, and then it
returns 0. -/
def Obligations.ReadsChangeOnlyRdpOrErr : Prop :=
  ∀ (s t : State) (i : Instr), isRead i = true → exec i s = .next t →
    (∃ v, t = answered v s) ∨
    (i = .rdDout ∧ s.phase = .done ∧ s.rdp < s.cnt ∧ t = { s with rdp := s.rdp + 1, rdata := t.rdata }) ∨
    (∃ b, 2 ≤ b ∧ b ≤ 8 ∧ t = readRefused b s)

/-- R143: in a build with `CFG_OK` false no write and no turn of the sequencer changes anything, `STATUS` reads 7 and
`ERR` 1, the `CFG_*` registers answer, every other read returns 0 and raises nothing, and reset re-enters `FATAL`. -/
def Obligations.FatalIsAbsorbing : Prop :=
  ∀ s : State, s.Inv → s.cfg.cfgOk = false →
    s.phase = .fatal ∧
    (∀ i, isRead i = false → exec i s = .next s) ∧
    exec .rdStatus s = .next (answered 0x007 s) ∧ exec .rdErr s = .next (answered 0x001 s) ∧
    (∀ i, isRead i = true → readsInFatal i = false → exec i s = .next (answered 0 s)) ∧
    (∀ i, readsInFatal i = true → ∃ v, exec i s = .next (answered v s)) ∧
    (s.cfg.admissible = true → configurationReads s) ∧
    microStep s = .next s ∧
    (∀ noise, (s.resetEvent noise).phase = .fatal)

/-- R210, R222, R223: a transaction raises at most one exception, one of the seven a transaction can raise, and one that
does changes nothing but that bit, whether it was set before or not, a refused read returning 0. One that raises none
would leave a clear `ERR` clear, and leaves `ERR` as it is unless it is an accepted `CLR`. -/
def Obligations.TransactionRaisesAtMostOne : Prop :=
  ∀ (s t : State) (i : Instr), exec i s = .next t →
    (∃ b, 2 ≤ b ∧ b ≤ 8 ∧ t = if isRead i = true then readRefused b s else raised b s) ∨
    (raisesNothing i s ∧
      (t.err = s.err ∨ (i = .cmdClr 0 ∧ s.phase.settled = true ∧ t.err = s.err &&& 0x001)))

/-- R28: a bit of `ERR` that is set stays set through every action but reset and, for bits 1 to 8, an accepted `CLR`. -/
def Obligations.ErrBitsAreSticky : Prop :=
  ∀ (s t : State) (b : Nat), step s = .next t → s.err.getLsbD b = true →
    t.err.getLsbD b = true ∨
    (∃ noise rest, s.inputs = .reset noise :: rest) ∨
    (1 ≤ b ∧ hostOp s (.cmdClr 0) ∧ s.phase.settled = true)

/-- R140: the order of the tests of a host transaction other than to `CMD`, at the level of the transaction, from the
address map of R62 and the phase table of R140: the first test that fires decides. Where none fires the transaction
completes and raises nothing. -/
def Obligations.HostTestsInOrder : Prop :=
  ∀ (s : State) (tr : Transaction) (i : Instr), s.Inv → s.phase ≠ .fatal → decode s.cfg.dw tr = .ok i →
    (tr.we = true → tr.addr ≠ 0x00 →
      (∀ b, writeRefusal s tr.addr.toNat tr.data = some b → exec i s = .next (raised b s)) ∧
      (writeRefusal s tr.addr.toNat tr.data = none → ∃ t, exec i s = .next t ∧ t.err = s.err)) ∧
    (tr.we = false →
      (∀ b, readRefusal s tr.addr.toNat = some b → exec i s = .next (readRefused b s)) ∧
      (readRefusal s tr.addr.toNat = none → ∃ t, exec i s = .next t ∧ t.err = s.err))

/-- R228 (a), (b), (d), (e): a host transaction discloses nothing secret. Two states of the machine that agree outside
`K0`, `K1`, `S`, `RND` and, before `DONE`, `BUF`, answer every host operation alike and still agree. -/
def Obligations.HostCannotObserveSecrets : Prop :=
  ∀ (s t s' t' : State) (i : Instr), s.Inv → s'.Inv → s.publicPart = s'.publicPart →
    exec i s = .next t → exec i s' = .next t' → t.publicPart = t'.publicPart ∧ t.rdata = t'.rdata

/-- R34, R242: no action lets anything depend on a cell of `BUF` that no push has written since the last `CLR` or
reset. -/
def Obligations.UnwrittenCellsAreUnobservable : Prop :=
  ∀ s t s' t' : State, s.Inv → s'.Inv → sameButUnwritten s s' → step s = .next t → step s' = .next t' →
    sameButUnwritten t t'

/-- R117, R213, R228 (e): unverified plaintext is never released. In a decrypt session or after one, `DOUT` returns an
element only with `AUTH_OK` set, and `AUTH_OK` becomes set only by the commit that finds the recomputed tag equal to
`TAGIN`. -/
def Obligations.UnverifiedPlaintextStaysHidden : Prop :=
  (∀ s t : State, s.Inv → s.mode = .decrypt → s.authOk = false → exec .rdDout s = .next t →
    ∃ b, t = readRefused b s) ∧
  (∀ s t : State, step s = .next t → s.authOk = false → t.authOk = true →
    engineTurn s ∧ s.phase = .fin ∧ s.mode = .decrypt ∧ s.duplex.slot s.cfg.maskSlot = some s.tagin)

/-- R251: a session ends with the key scrubbed. Another start command is then refused with `E_SEQ`, and after the `CLR`
that this calls for with `E_OPND`: key and nonce must be written again. -/
def Obligations.KeyMustBeSuppliedAgain : Prop :=
  ∀ (s t : State) (m : Mode), s.Inv → s.phase.busy = true → microStep s = .next t → t.phase.busy = false →
    t.k0v = false ∧ t.k1v = false ∧ t.nv = true ∧ exec (startOf m) t = .next (raised 4 t) ∧
    ∃ u, exec (.cmdClr 0) t = .next u ∧ u.nv = false ∧ exec (startOf m) u = .next (raised 5 u)

/-! ## The functions -/

/-- R82 to R84: the laws of addition and subtraction, in a structure that is a field (log 15). -/
def Obligations.AdditionLaws : Prop :=
  ∀ (f : FieldSpec) (a b c : Elt), f.IsField → a < f.order → b < f.order → c < f.order →
    f.add a b < f.order ∧ f.sub a b < f.order ∧ f.add a b = f.add b a ∧ f.add (f.add a b) c = f.add a (f.add b c) ∧
    f.add a 0 = a ∧ f.sub (f.add a b) b = a ∧ f.add (f.sub a b) b = a ∧ f.sub a b = f.add a (f.sub 0 b)

/-- R82 to R85: the laws of multiplication, in a structure that is a field (log 15). -/
def Obligations.MultiplicationLaws : Prop :=
  ∀ (f : FieldSpec) (a b c : Elt), f.IsField → a < f.order → b < f.order → c < f.order →
    f.mul a b < f.order ∧ f.mul a b = f.mul b a ∧ f.mul (f.mul a b) c = f.mul a (f.mul b c) ∧
    f.mul a (f.add b c) = f.add (f.mul a b) (f.mul a c) ∧ f.mul a 1 = a ∧ f.mul a 0 = 0

/-- R84, R6: the structure is a field where `p` is prime or `POLY` irreducible (log 15): every element but 0 has an
inverse. -/
def Obligations.NonzeroElementsAreInvertible : Prop :=
  ∀ (f : FieldSpec) (a : Elt), f.IsField → a < f.order → a ≠ 0 → ∃ b, b < f.order ∧ f.mul a b = 1

/-- R87: the byte encoding has `EB` bytes, most significant first, decodes to the element it encodes, and a byte string
decodes to an element only if it is the encoding of that element; that a string of another length decodes to none is the
model's reading (log 18). -/
def Obligations.ByteEncodingRoundTrip : Prop :=
  ∀ (c : Config) (a : Elt) (bs : List (BitVec 8)),
    (a < c.field.order → (c.elementBytes a).length = c.eb ∧ natOfBytes (c.elementBytes a) = a ∧
      c.elementOfBytes (c.elementBytes a) = some a) ∧
    (c.elementOfBytes bs = some a → a < c.field.order ∧ c.elementBytes a = bs)

/-- R97: `REF3inv` undoes `REF3` and `REF3` undoes `REF3inv`, for every constant, 0 and 1 included. -/
def Obligations.RefThreeIsInvertible : Prop :=
  ∀ (f : FieldSpec) (d : Duplex) (rc : Elt), 0 < f.order → f.shaped = true → d.canonical f = true → rc < f.order →
    ref3inv f (ref3 f d rc) rc = d ∧ ref3 f (ref3inv f d rc) rc = d ∧ (ref3 f d rc).canonical f = true ∧
    (ref3inv f d rc).canonical f = true

/-- R88 (d), R95: for every constant the round of the build is a bijection of the states, the withheld round functions
(log 3) included; so are `Big` and `Small`. -/
def Obligations.PermutationsAreBijections : Prop :=
  ∀ c : Config, c.admissible = true → c.cfgOk = true →
    (∀ rc, rc < c.field.order → Set.BijOn (fun d => roundOf c d rc) (states c.field) (states c.field)) ∧
    Set.BijOn (big c) (states c.field) (states c.field) ∧ Set.BijOn (small c) (states c.field) (states c.field)

/-- R94: `Small` is `R_SMALL` consecutive rounds of `Big`, the last ones with the default offset. -/
def Obligations.SmallIsSliceOfBig : Prop :=
  ∀ (c : Config) (d : Duplex), c.cfgOk = true →
    big c d = perm c (c.rcOffset + c.rSmall) (c.rBig - (c.rcOffset + c.rSmall)) (small c (perm c 0 c.rcOffset d)) ∧
    (c.rcOffset = c.rBig - c.rSmall → big c d = small c (perm c 0 (c.rBig - c.rSmall) d))

/-- R115 to R120, R123, R125: block `i` of the output is block `i` of the input plus (encrypt) or minus (decrypt) the `i`-th
mask of the trajectory, for every length and position alike; the tag is the next mask, and `Decrypt` returns for exactly
that tag and raises for every other. -/
def Obligations.BlocksUseMaskSequence : Prop :=
  ∀ (c : Config) (k0 k1 n iv : Elt) (xs : List Elt) (tag : Elt),
    encrypt c k0 k1 n iv xs =
      (xs.mapIdx (fun i x => c.field.add x (maskAt c (keySchedule c k0 k1 n iv) i)),
        maskAt c (keySchedule c k0 k1 n iv) xs.length) ∧
    decrypt c k0 k1 n iv xs tag =
      if tag = maskAt c (keySchedule c k0 k1 n iv) xs.length then
        .ok (xs.mapIdx (fun i x => c.field.sub x (maskAt c (keySchedule c k0 k1 n iv) i)))
      else .error .authenticationError

/-- R121: decrypting what was encrypted gives the message back and does not raise. -/
def Obligations.DecryptInvertsEncrypt : Prop :=
  ∀ (c : Config) (k0 k1 n iv : Elt) (msg ct : List Elt) (tag : Elt), c.admissible = true → c.cfgOk = true →
    k0 < c.field.order → k1 < c.field.order → n < c.field.order → iv < c.field.order → canonicalList c.field msg →
    encrypt c k0 k1 n iv msg = (ct, tag) → decrypt c k0 k1 n iv ct tag = .ok msg

/-- R124: the tag depends on the length and not on the content (a); a changed ciphertext passes with the same tag and
gives a changed message, block by block by the same difference (b); a truncated one passes with the tag a known block
discloses (c). R253 is the hazard that (b) makes. -/
def Obligations.TagIgnoresContent : Prop :=
  ∀ (c : Config) (k0 k1 n iv : Elt) (m m' : List Elt),
    (m.length = m'.length → (encrypt c k0 k1 n iv m).2 = (encrypt c k0 k1 n iv m').2) ∧
    (∀ tag p, m.length = m'.length → decrypt c k0 k1 n iv m tag = .ok p →
      ∃ p', decrypt c k0 k1 n iv m' tag = .ok p' ∧
        (c.admissible = true → c.cfgOk = true → k0 < c.field.order → k1 < c.field.order → n < c.field.order →
          iv < c.field.order → canonicalList c.field m → canonicalList c.field m' →
          (∀ (i : Nat) (x x' y y' : Elt), m[i]? = some x → m'[i]? = some x' → p[i]? = some y → p'[i]? = some y' →
            c.field.sub y' y = c.field.sub x' x) ∧
          (m ≠ m' → p ≠ p'))) ∧
    (∀ (ct : List Elt) (tag x y : Elt) (l : Nat), c.admissible = true → c.cfgOk = true →
      k0 < c.field.order → k1 < c.field.order → n < c.field.order → iv < c.field.order → canonicalList c.field m →
      encrypt c k0 k1 n iv m = (ct, tag) → m[l]? = some x → ct[l]? = some y →
      c.field.sub y x = (encrypt c k0 k1 n iv (m.take l)).2 ∧
      decrypt c k0 k1 n iv (ct.take l) (c.field.sub y x) = .ok (m.take l))

/-- R246, R249: two messages under the same key, nonce and IV: the difference of the ciphertexts is the difference of the
messages, and equal lengths give equal tags; with the default layout a nonce and an IV of the same sum are the same
session. -/
def Obligations.NonceReuseDisclosesDifferences : Prop :=
  ∀ (c : Config) (k0 k1 n iv : Elt) (m1 m2 : List Elt), c.admissible = true → c.cfgOk = true →
    k0 < c.field.order → k1 < c.field.order → n < c.field.order → iv < c.field.order →
    canonicalList c.field m1 → canonicalList c.field m2 →
    (∀ (i : Nat) (x1 x2 y1 y2 : Elt), m1[i]? = some x1 → m2[i]? = some x2 →
      (encrypt c k0 k1 n iv m1).1[i]? = some y1 → (encrypt c k0 k1 n iv m2).1[i]? = some y2 →
      c.field.sub y1 y2 = c.field.sub x1 x2) ∧
    (m1.length = m2.length → (encrypt c k0 k1 n iv m1).2 = (encrypt c k0 k1 n iv m2).2) ∧
    (∀ n' iv', c.ksLayout = .noncePlusIv → c.field.add n iv = c.field.add n' iv' →
      encrypt c k0 k1 n iv m1 = encrypt c k0 k1 n' iv' m1)

/-! ## Sessions -/

/-- R200, R258: a session of `L` blocks is busy for exactly `(R_BIG + 1) + L (R_SMALL + 1) + (R_SMALL + 1)` micro-steps,
whatever the key, the data, the mode and the outcome. -/
def Obligations.SessionStepCount : Prop :=
  ∀ (s b : State) (m : Mode), s.Inv → s.cfg.cfgOk = true → exec (startOf m) s = .next b → b.phase = .ks →
    s.phase = .idle →
    (∀ j, j < (s.cfg.rBig + 1) + s.len.toNat * (s.cfg.rSmall + 1) + (s.cfg.rSmall + 1) →
      ∃ u, microSteps j b = .next u ∧ u.phase.busy = true) ∧
    ∃ u, microSteps ((s.cfg.rBig + 1) + s.len.toNat * (s.cfg.rSmall + 1) + (s.cfg.rSmall + 1)) b = .next u ∧
      (u.phase = .done ∨ u.phase = .fail)

/-- R202, the encrypt half: from a state in which `START_ENC` is accepted, after the command and `N_steps` turns of the
sequencer, with any host transactions interleaved, the buffer and `TAGOUT` hold `Encrypt` of what the registers held. -/
def Obligations.EncryptSessionComputesEncrypt : Prop :=
  ∀ (s : State) (pre : List Event) (ct : List Elt) (tag : Elt), s.Inv → s.cfg.cfgOk = true → s.phase = .idle →
    s.k0v = true → s.k1v = true → s.nv = true → s.cnt = s.len.toNat →
    (∀ e ∈ pre, e.sessionAction s.cfg.dw = true) → turns pre + 1 = nSteps s.cfg s.cnt →
    encrypt s.cfg s.k0 s.k1 s.nonce s.iv (s.sequence s.cnt) = (ct, tag) →
    ∃ t, runs s (writeEvent .cmd 0x01 :: pre ++ [.engine]) t ∧
      { t with buf := s.buf, err := s.err, rdata := s.rdata } =
        { ended s .encrypt .done with tagout := tag, tagv := true } ∧
      t.sequence s.cnt = ct ∧ ∀ j, s.cnt ≤ j → t.buf.read j = s.buf.read j

/-- R202, the decrypt half: likewise for `START_DEC` and `Decrypt`; where `Decrypt` raises, the session ends in `FAIL`
with `E_AUTH` set and `BUF` zero. -/
def Obligations.DecryptSessionComputesDecrypt : Prop :=
  ∀ (s : State) (pre : List Event), s.Inv → s.cfg.cfgOk = true → s.phase = .idle →
    s.k0v = true → s.k1v = true → s.nv = true → s.tv = true → s.cnt = s.len.toNat →
    (∀ e ∈ pre, e.sessionAction s.cfg.dw = true) → turns pre + 1 = nSteps s.cfg s.cnt →
    ∃ t, runs s (writeEvent .cmd 0x02 :: pre ++ [.engine]) t ∧
      (∀ msg, decrypt s.cfg s.k0 s.k1 s.nonce s.iv (s.sequence s.cnt) s.tagin = .ok msg →
        { t with buf := s.buf, err := s.err, rdata := s.rdata } = { ended s .decrypt .done with authOk := true } ∧
        t.sequence s.cnt = msg ∧ ∀ j, s.cnt ≤ j → t.buf.read j = s.buf.read j) ∧
      (decrypt s.cfg s.k0 s.k1 s.nonce s.iv (s.sequence s.cnt) s.tagin = .error .authenticationError →
        { t with buf := s.buf, err := s.err, rdata := s.rdata } = ended s .decrypt .fail ∧
        t.err.getLsbD 1 = true ∧ ∀ j, t.buf.read j = 0)

/-- R203: however host transactions are interleaved with the turns of a running session, the state reached is that of
the turns alone, `ERR`, the queue and the word of the latest read (logs 5, 7) apart. -/
def Obligations.SessionIgnoresInterleaving : Prop :=
  ∀ (s : State) (pre : List Event), s.Inv → (∀ e ∈ pre, e.sessionAction s.cfg.dw = true) →
    (∀ j, j ≤ turns pre → ∃ u, microSteps j s = .next u ∧ u.phase.busy = true) →
    ∃ t u, runs s (pre ++ [.engine]) t ∧ microSteps (turns pre + 1) s = .next u ∧ t.sessionPart = u.sessionPart

/-- R245: the session protocol, from `IDLE` with nothing pushed and no error. Steps 2 to 6 come in any order, with or
without a write of `IV`; the host polls while the sequencer works; the results are read in whole or in part, the tag
before, between or after the pops; a decrypt session whose tag fails ends in `FAIL`. No transaction of the host is
refused (the one bit `ERR` may show is `E_AUTH`, which the failing commit raises), and `CLR` is accepted at the end. The
queue is the model's (log 5). -/
def Obligations.SessionProtocolIsNeverRefused : Prop :=
  ∀ (s : State) (k0 k1 n : Elt) (iv : Option Elt) (xs : List Elt) (loads wait : List Event),
    s.Inv → s.cfg.cfgOk = true → s.phase = .idle → s.cnt = 0 → s.err = 0 → xs.length ≤ s.cfg.maxBlocks →
    k0 < s.cfg.field.order → k1 < s.cfg.field.order → n < s.cfg.field.order →
    (∀ v ∈ iv, v < s.cfg.field.order) → canonicalList s.cfg.field xs → waiting (nSteps s.cfg xs.length) wait →
    (∀ ct tag, loadSequence (operandWrites k0 k1 n iv none xs.length) xs loads →
      encrypt s.cfg k0 k1 n (iv.getD s.iv) xs = (ct, tag) →
      ∃ t, runs s (loads ++ [writeEvent .cmd 0x01] ++ wait) t ∧ t.phase = .done ∧ t.err = 0 ∧ ct.length = xs.length ∧
        resultsReadable t ct tag) ∧
    (∀ tag, tag < s.cfg.field.order → loadSequence (operandWrites k0 k1 n iv (some tag) xs.length) xs loads →
      ∃ t, runs s (loads ++ [writeEvent .cmd 0x02] ++ wait) t ∧
        (∀ msg, decrypt s.cfg k0 k1 n (iv.getD s.iv) xs tag = .ok msg →
          t.phase = .done ∧ t.authOk = true ∧ t.err = 0 ∧ msg.length = xs.length ∧ resultsReadable t msg 0) ∧
        (decrypt s.cfg k0 k1 n (iv.getD s.iv) xs tag = .error .authenticationError →
          t.phase = .fail ∧ t.authOk = false ∧ t.err = 0x002 ∧ clears t))
end

