-- ==== Sys2Proof/Laws/State.lean ====
section
/-! SUPPORT. One lemma per field of `State` per named update, true by rfl, so that no later proof unfolds an update. -/

namespace Sys2Proof.Machine

@[simp] theorem State.raise_cfg (s : State) (e : Exc) : (s.raise e).cfg = s.cfg := rfl
@[simp] theorem State.raise_k0 (s : State) (e : Exc) : (s.raise e).k0 = s.k0 := rfl
@[simp] theorem State.raise_k1 (s : State) (e : Exc) : (s.raise e).k1 = s.k1 := rfl
@[simp] theorem State.raise_k0v (s : State) (e : Exc) : (s.raise e).k0v = s.k0v := rfl
@[simp] theorem State.raise_k1v (s : State) (e : Exc) : (s.raise e).k1v = s.k1v := rfl
@[simp] theorem State.raise_nonce (s : State) (e : Exc) : (s.raise e).nonce = s.nonce := rfl
@[simp] theorem State.raise_nv (s : State) (e : Exc) : (s.raise e).nv = s.nv := rfl
@[simp] theorem State.raise_iv (s : State) (e : Exc) : (s.raise e).iv = s.iv := rfl
@[simp] theorem State.raise_tagin (s : State) (e : Exc) : (s.raise e).tagin = s.tagin := rfl
@[simp] theorem State.raise_tv (s : State) (e : Exc) : (s.raise e).tv = s.tv := rfl
@[simp] theorem State.raise_tagout (s : State) (e : Exc) : (s.raise e).tagout = s.tagout := rfl
@[simp] theorem State.raise_tagv (s : State) (e : Exc) : (s.raise e).tagv = s.tagv := rfl
@[simp] theorem State.raise_duplex (s : State) (e : Exc) : (s.raise e).duplex = s.duplex := rfl
@[simp] theorem State.raise_len (s : State) (e : Exc) : (s.raise e).len = s.len := rfl
@[simp] theorem State.raise_cnt (s : State) (e : Exc) : (s.raise e).cnt = s.cnt := rfl
@[simp] theorem State.raise_rdp (s : State) (e : Exc) : (s.raise e).rdp = s.rdp := rfl
@[simp] theorem State.raise_blk (s : State) (e : Exc) : (s.raise e).blk = s.blk := rfl
@[simp] theorem State.raise_rnd (s : State) (e : Exc) : (s.raise e).rnd = s.rnd := rfl
@[simp] theorem State.raise_phase (s : State) (e : Exc) : (s.raise e).phase = s.phase := rfl
@[simp] theorem State.raise_mode (s : State) (e : Exc) : (s.raise e).mode = s.mode := rfl
@[simp] theorem State.raise_authOk (s : State) (e : Exc) : (s.raise e).authOk = s.authOk := rfl
@[simp] theorem State.raise_err (s : State) (e : Exc) : (s.raise e).err = s.err ||| e.mask := rfl
@[simp] theorem State.raise_rcaddr (s : State) (e : Exc) : (s.raise e).rcaddr = s.rcaddr := rfl
@[simp] theorem State.raise_buf (s : State) (e : Exc) : (s.raise e).buf = s.buf := rfl
@[simp] theorem State.raise_inputs (s : State) (e : Exc) : (s.raise e).inputs = s.inputs := rfl
@[simp] theorem State.raise_rdata (s : State) (e : Exc) : (s.raise e).rdata = s.rdata := rfl

@[simp] theorem State.reply_cfg (s : State) (v : Nat) : (s.reply v).cfg = s.cfg := rfl
@[simp] theorem State.reply_k0 (s : State) (v : Nat) : (s.reply v).k0 = s.k0 := rfl
@[simp] theorem State.reply_k1 (s : State) (v : Nat) : (s.reply v).k1 = s.k1 := rfl
@[simp] theorem State.reply_k0v (s : State) (v : Nat) : (s.reply v).k0v = s.k0v := rfl
@[simp] theorem State.reply_k1v (s : State) (v : Nat) : (s.reply v).k1v = s.k1v := rfl
@[simp] theorem State.reply_nonce (s : State) (v : Nat) : (s.reply v).nonce = s.nonce := rfl
@[simp] theorem State.reply_nv (s : State) (v : Nat) : (s.reply v).nv = s.nv := rfl
@[simp] theorem State.reply_iv (s : State) (v : Nat) : (s.reply v).iv = s.iv := rfl
@[simp] theorem State.reply_tagin (s : State) (v : Nat) : (s.reply v).tagin = s.tagin := rfl
@[simp] theorem State.reply_tv (s : State) (v : Nat) : (s.reply v).tv = s.tv := rfl
@[simp] theorem State.reply_tagout (s : State) (v : Nat) : (s.reply v).tagout = s.tagout := rfl
@[simp] theorem State.reply_tagv (s : State) (v : Nat) : (s.reply v).tagv = s.tagv := rfl
@[simp] theorem State.reply_duplex (s : State) (v : Nat) : (s.reply v).duplex = s.duplex := rfl
@[simp] theorem State.reply_len (s : State) (v : Nat) : (s.reply v).len = s.len := rfl
@[simp] theorem State.reply_cnt (s : State) (v : Nat) : (s.reply v).cnt = s.cnt := rfl
@[simp] theorem State.reply_rdp (s : State) (v : Nat) : (s.reply v).rdp = s.rdp := rfl
@[simp] theorem State.reply_blk (s : State) (v : Nat) : (s.reply v).blk = s.blk := rfl
@[simp] theorem State.reply_rnd (s : State) (v : Nat) : (s.reply v).rnd = s.rnd := rfl
@[simp] theorem State.reply_phase (s : State) (v : Nat) : (s.reply v).phase = s.phase := rfl
@[simp] theorem State.reply_mode (s : State) (v : Nat) : (s.reply v).mode = s.mode := rfl
@[simp] theorem State.reply_authOk (s : State) (v : Nat) : (s.reply v).authOk = s.authOk := rfl
@[simp] theorem State.reply_err (s : State) (v : Nat) : (s.reply v).err = s.err := rfl
@[simp] theorem State.reply_rcaddr (s : State) (v : Nat) : (s.reply v).rcaddr = s.rcaddr := rfl
@[simp] theorem State.reply_buf (s : State) (v : Nat) : (s.reply v).buf = s.buf := rfl
@[simp] theorem State.reply_inputs (s : State) (v : Nat) : (s.reply v).inputs = s.inputs := rfl
@[simp] theorem State.reply_rdata (s : State) (v : Nat) : (s.reply v).rdata = v := rfl

@[simp] theorem State.clear_cfg (s : State) : (s.clear).cfg = s.cfg := rfl
@[simp] theorem State.clear_k0 (s : State) : (s.clear).k0 = 0 := rfl
@[simp] theorem State.clear_k1 (s : State) : (s.clear).k1 = 0 := rfl
@[simp] theorem State.clear_k0v (s : State) : (s.clear).k0v = false := rfl
@[simp] theorem State.clear_k1v (s : State) : (s.clear).k1v = false := rfl
@[simp] theorem State.clear_nonce (s : State) : (s.clear).nonce = 0 := rfl
@[simp] theorem State.clear_nv (s : State) : (s.clear).nv = false := rfl
@[simp] theorem State.clear_iv (s : State) : (s.clear).iv = s.iv := rfl
@[simp] theorem State.clear_tagin (s : State) : (s.clear).tagin = 0 := rfl
@[simp] theorem State.clear_tv (s : State) : (s.clear).tv = false := rfl
@[simp] theorem State.clear_tagout (s : State) : (s.clear).tagout = 0 := rfl
@[simp] theorem State.clear_tagv (s : State) : (s.clear).tagv = false := rfl
@[simp] theorem State.clear_duplex (s : State) : (s.clear).duplex = Duplex.zero := rfl
@[simp] theorem State.clear_len (s : State) : (s.clear).len = 0 := rfl
@[simp] theorem State.clear_cnt (s : State) : (s.clear).cnt = 0 := rfl
@[simp] theorem State.clear_rdp (s : State) : (s.clear).rdp = 0 := rfl
@[simp] theorem State.clear_blk (s : State) : (s.clear).blk = 0 := rfl
@[simp] theorem State.clear_rnd (s : State) : (s.clear).rnd = 0 := rfl
@[simp] theorem State.clear_phase (s : State) : (s.clear).phase = .idle := rfl
@[simp] theorem State.clear_mode (s : State) : (s.clear).mode = .encrypt := rfl
@[simp] theorem State.clear_authOk (s : State) : (s.clear).authOk = false := rfl
@[simp] theorem State.clear_err (s : State) : (s.clear).err = s.err &&& 0x001 := rfl
@[simp] theorem State.clear_rcaddr (s : State) : (s.clear).rcaddr = s.rcaddr := rfl
@[simp] theorem State.clear_buf (s : State) : (s.clear).buf = s.buf.zeroBelow s.cfg.maxBlocks := rfl
@[simp] theorem State.clear_inputs (s : State) : (s.clear).inputs = s.inputs := rfl
@[simp] theorem State.clear_rdata (s : State) : (s.clear).rdata = s.rdata := rfl

@[simp] theorem State.resetEvent_cfg (s : State) (noise : List (Nat × Elt)) : (s.resetEvent noise).cfg = s.cfg := rfl
@[simp] theorem State.resetEvent_k0 (s : State) (noise : List (Nat × Elt)) : (s.resetEvent noise).k0 = 0 := rfl
@[simp] theorem State.resetEvent_k1 (s : State) (noise : List (Nat × Elt)) : (s.resetEvent noise).k1 = 0 := rfl
@[simp] theorem State.resetEvent_k0v (s : State) (noise : List (Nat × Elt)) : (s.resetEvent noise).k0v = false := rfl
@[simp] theorem State.resetEvent_k1v (s : State) (noise : List (Nat × Elt)) : (s.resetEvent noise).k1v = false := rfl
@[simp] theorem State.resetEvent_nonce (s : State) (noise : List (Nat × Elt)) : (s.resetEvent noise).nonce = 0 := rfl
@[simp] theorem State.resetEvent_nv (s : State) (noise : List (Nat × Elt)) : (s.resetEvent noise).nv = false := rfl
@[simp] theorem State.resetEvent_iv (s : State) (noise : List (Nat × Elt)) : (s.resetEvent noise).iv = 1 := rfl
@[simp] theorem State.resetEvent_tagin (s : State) (noise : List (Nat × Elt)) : (s.resetEvent noise).tagin = 0 := rfl
@[simp] theorem State.resetEvent_tv (s : State) (noise : List (Nat × Elt)) : (s.resetEvent noise).tv = false := rfl
@[simp] theorem State.resetEvent_tagout (s : State) (noise : List (Nat × Elt)) : (s.resetEvent noise).tagout = 0 := rfl
@[simp] theorem State.resetEvent_tagv (s : State) (noise : List (Nat × Elt)) : (s.resetEvent noise).tagv = false := rfl
@[simp] theorem State.resetEvent_duplex (s : State) (noise : List (Nat × Elt)) : (s.resetEvent noise).duplex = Duplex.zero := rfl
@[simp] theorem State.resetEvent_len (s : State) (noise : List (Nat × Elt)) : (s.resetEvent noise).len = 0 := rfl
@[simp] theorem State.resetEvent_cnt (s : State) (noise : List (Nat × Elt)) : (s.resetEvent noise).cnt = 0 := rfl
@[simp] theorem State.resetEvent_rdp (s : State) (noise : List (Nat × Elt)) : (s.resetEvent noise).rdp = 0 := rfl
@[simp] theorem State.resetEvent_blk (s : State) (noise : List (Nat × Elt)) : (s.resetEvent noise).blk = 0 := rfl
@[simp] theorem State.resetEvent_rnd (s : State) (noise : List (Nat × Elt)) : (s.resetEvent noise).rnd = 0 := rfl
@[simp] theorem State.resetEvent_phase (s : State) (noise : List (Nat × Elt)) : (s.resetEvent noise).phase = if s.cfg.cfgOk then .idle else .fatal := rfl
@[simp] theorem State.resetEvent_mode (s : State) (noise : List (Nat × Elt)) : (s.resetEvent noise).mode = .encrypt := rfl
@[simp] theorem State.resetEvent_authOk (s : State) (noise : List (Nat × Elt)) : (s.resetEvent noise).authOk = false := rfl
@[simp] theorem State.resetEvent_err (s : State) (noise : List (Nat × Elt)) : (s.resetEvent noise).err = if s.cfg.cfgOk then 0 else 1 := rfl
@[simp] theorem State.resetEvent_rcaddr (s : State) (noise : List (Nat × Elt)) : (s.resetEvent noise).rcaddr = 0 := rfl
@[simp] theorem State.resetEvent_buf (s : State) (noise : List (Nat × Elt)) : (s.resetEvent noise).buf = Memory.ofNoise s.cfg.maxBlocks s.cfg.field.order noise := rfl
@[simp] theorem State.resetEvent_inputs (s : State) (noise : List (Nat × Elt)) : (s.resetEvent noise).inputs = s.inputs := rfl
@[simp] theorem State.resetEvent_rdata (s : State) (noise : List (Nat × Elt)) : (s.resetEvent noise).rdata = s.rdata := rfl

@[simp] theorem State.scrub_cfg (s : State) : (s.scrub).cfg = s.cfg := rfl
@[simp] theorem State.scrub_k0 (s : State) : (s.scrub).k0 = 0 := rfl
@[simp] theorem State.scrub_k1 (s : State) : (s.scrub).k1 = 0 := rfl
@[simp] theorem State.scrub_k0v (s : State) : (s.scrub).k0v = false := rfl
@[simp] theorem State.scrub_k1v (s : State) : (s.scrub).k1v = false := rfl
@[simp] theorem State.scrub_nonce (s : State) : (s.scrub).nonce = s.nonce := rfl
@[simp] theorem State.scrub_nv (s : State) : (s.scrub).nv = s.nv := rfl
@[simp] theorem State.scrub_iv (s : State) : (s.scrub).iv = s.iv := rfl
@[simp] theorem State.scrub_tagin (s : State) : (s.scrub).tagin = s.tagin := rfl
@[simp] theorem State.scrub_tv (s : State) : (s.scrub).tv = s.tv := rfl
@[simp] theorem State.scrub_tagout (s : State) : (s.scrub).tagout = s.tagout := rfl
@[simp] theorem State.scrub_tagv (s : State) : (s.scrub).tagv = s.tagv := rfl
@[simp] theorem State.scrub_duplex (s : State) : (s.scrub).duplex = Duplex.zero := rfl
@[simp] theorem State.scrub_len (s : State) : (s.scrub).len = s.len := rfl
@[simp] theorem State.scrub_cnt (s : State) : (s.scrub).cnt = s.cnt := rfl
@[simp] theorem State.scrub_rdp (s : State) : (s.scrub).rdp = s.rdp := rfl
@[simp] theorem State.scrub_blk (s : State) : (s.scrub).blk = s.blk := rfl
@[simp] theorem State.scrub_rnd (s : State) : (s.scrub).rnd = 0 := rfl
@[simp] theorem State.scrub_phase (s : State) : (s.scrub).phase = s.phase := rfl
@[simp] theorem State.scrub_mode (s : State) : (s.scrub).mode = s.mode := rfl
@[simp] theorem State.scrub_authOk (s : State) : (s.scrub).authOk = s.authOk := rfl
@[simp] theorem State.scrub_err (s : State) : (s.scrub).err = s.err := rfl
@[simp] theorem State.scrub_rcaddr (s : State) : (s.scrub).rcaddr = s.rcaddr := rfl
@[simp] theorem State.scrub_buf (s : State) : (s.scrub).buf = s.buf := rfl
@[simp] theorem State.scrub_inputs (s : State) : (s.scrub).inputs = s.inputs := rfl
@[simp] theorem State.scrub_rdata (s : State) : (s.scrub).rdata = s.rdata := rfl

@[simp] theorem State.zeroBuf_cfg (s : State) : (s.zeroBuf).cfg = s.cfg := rfl
@[simp] theorem State.zeroBuf_k0 (s : State) : (s.zeroBuf).k0 = s.k0 := rfl
@[simp] theorem State.zeroBuf_k1 (s : State) : (s.zeroBuf).k1 = s.k1 := rfl
@[simp] theorem State.zeroBuf_k0v (s : State) : (s.zeroBuf).k0v = s.k0v := rfl
@[simp] theorem State.zeroBuf_k1v (s : State) : (s.zeroBuf).k1v = s.k1v := rfl
@[simp] theorem State.zeroBuf_nonce (s : State) : (s.zeroBuf).nonce = s.nonce := rfl
@[simp] theorem State.zeroBuf_nv (s : State) : (s.zeroBuf).nv = s.nv := rfl
@[simp] theorem State.zeroBuf_iv (s : State) : (s.zeroBuf).iv = s.iv := rfl
@[simp] theorem State.zeroBuf_tagin (s : State) : (s.zeroBuf).tagin = s.tagin := rfl
@[simp] theorem State.zeroBuf_tv (s : State) : (s.zeroBuf).tv = s.tv := rfl
@[simp] theorem State.zeroBuf_tagout (s : State) : (s.zeroBuf).tagout = s.tagout := rfl
@[simp] theorem State.zeroBuf_tagv (s : State) : (s.zeroBuf).tagv = s.tagv := rfl
@[simp] theorem State.zeroBuf_duplex (s : State) : (s.zeroBuf).duplex = s.duplex := rfl
@[simp] theorem State.zeroBuf_len (s : State) : (s.zeroBuf).len = s.len := rfl
@[simp] theorem State.zeroBuf_cnt (s : State) : (s.zeroBuf).cnt = s.cnt := rfl
@[simp] theorem State.zeroBuf_rdp (s : State) : (s.zeroBuf).rdp = s.rdp := rfl
@[simp] theorem State.zeroBuf_blk (s : State) : (s.zeroBuf).blk = s.blk := rfl
@[simp] theorem State.zeroBuf_rnd (s : State) : (s.zeroBuf).rnd = s.rnd := rfl
@[simp] theorem State.zeroBuf_phase (s : State) : (s.zeroBuf).phase = s.phase := rfl
@[simp] theorem State.zeroBuf_mode (s : State) : (s.zeroBuf).mode = s.mode := rfl
@[simp] theorem State.zeroBuf_authOk (s : State) : (s.zeroBuf).authOk = s.authOk := rfl
@[simp] theorem State.zeroBuf_err (s : State) : (s.zeroBuf).err = s.err := rfl
@[simp] theorem State.zeroBuf_rcaddr (s : State) : (s.zeroBuf).rcaddr = s.rcaddr := rfl
@[simp] theorem State.zeroBuf_buf (s : State) : (s.zeroBuf).buf = s.buf.zeroBelow s.cfg.maxBlocks := rfl
@[simp] theorem State.zeroBuf_inputs (s : State) : (s.zeroBuf).inputs = s.inputs := rfl
@[simp] theorem State.zeroBuf_rdata (s : State) : (s.zeroBuf).rdata = s.rdata := rfl

@[simp] theorem State.beginSession_cfg (s : State) (m : Mode) : (s.beginSession m).cfg = s.cfg := rfl
@[simp] theorem State.beginSession_k0 (s : State) (m : Mode) : (s.beginSession m).k0 = s.k0 := rfl
@[simp] theorem State.beginSession_k1 (s : State) (m : Mode) : (s.beginSession m).k1 = s.k1 := rfl
@[simp] theorem State.beginSession_k0v (s : State) (m : Mode) : (s.beginSession m).k0v = s.k0v := rfl
@[simp] theorem State.beginSession_k1v (s : State) (m : Mode) : (s.beginSession m).k1v = s.k1v := rfl
@[simp] theorem State.beginSession_nonce (s : State) (m : Mode) : (s.beginSession m).nonce = s.nonce := rfl
@[simp] theorem State.beginSession_nv (s : State) (m : Mode) : (s.beginSession m).nv = s.nv := rfl
@[simp] theorem State.beginSession_iv (s : State) (m : Mode) : (s.beginSession m).iv = s.iv := rfl
@[simp] theorem State.beginSession_tagin (s : State) (m : Mode) : (s.beginSession m).tagin = s.tagin := rfl
@[simp] theorem State.beginSession_tv (s : State) (m : Mode) : (s.beginSession m).tv = s.tv := rfl
@[simp] theorem State.beginSession_tagout (s : State) (m : Mode) : (s.beginSession m).tagout = s.tagout := rfl
@[simp] theorem State.beginSession_tagv (s : State) (m : Mode) : (s.beginSession m).tagv = s.tagv := rfl
@[simp] theorem State.beginSession_duplex (s : State) (m : Mode) : (s.beginSession m).duplex = ksLayoutOf s.cfg s.k0 s.k1 s.nonce s.iv := rfl
@[simp] theorem State.beginSession_len (s : State) (m : Mode) : (s.beginSession m).len = s.len := rfl
@[simp] theorem State.beginSession_cnt (s : State) (m : Mode) : (s.beginSession m).cnt = s.cnt := rfl
@[simp] theorem State.beginSession_rdp (s : State) (m : Mode) : (s.beginSession m).rdp = s.rdp := rfl
@[simp] theorem State.beginSession_blk (s : State) (m : Mode) : (s.beginSession m).blk = 0 := rfl
@[simp] theorem State.beginSession_rnd (s : State) (m : Mode) : (s.beginSession m).rnd = 0 := rfl
@[simp] theorem State.beginSession_phase (s : State) (m : Mode) : (s.beginSession m).phase = .ks := rfl
@[simp] theorem State.beginSession_mode (s : State) (m : Mode) : (s.beginSession m).mode = m := rfl
@[simp] theorem State.beginSession_authOk (s : State) (m : Mode) : (s.beginSession m).authOk = s.authOk := rfl
@[simp] theorem State.beginSession_err (s : State) (m : Mode) : (s.beginSession m).err = s.err := rfl
@[simp] theorem State.beginSession_rcaddr (s : State) (m : Mode) : (s.beginSession m).rcaddr = s.rcaddr := rfl
@[simp] theorem State.beginSession_buf (s : State) (m : Mode) : (s.beginSession m).buf = s.buf := rfl
@[simp] theorem State.beginSession_inputs (s : State) (m : Mode) : (s.beginSession m).inputs = s.inputs := rfl
@[simp] theorem State.beginSession_rdata (s : State) (m : Mode) : (s.beginSession m).rdata = s.rdata := rfl

@[simp] theorem State.issue_cfg (s : State) (t : Transaction) : (s.issue t).cfg = s.cfg := rfl
@[simp] theorem State.issue_k0 (s : State) (t : Transaction) : (s.issue t).k0 = s.k0 := rfl
@[simp] theorem State.issue_k1 (s : State) (t : Transaction) : (s.issue t).k1 = s.k1 := rfl
@[simp] theorem State.issue_k0v (s : State) (t : Transaction) : (s.issue t).k0v = s.k0v := rfl
@[simp] theorem State.issue_k1v (s : State) (t : Transaction) : (s.issue t).k1v = s.k1v := rfl
@[simp] theorem State.issue_nonce (s : State) (t : Transaction) : (s.issue t).nonce = s.nonce := rfl
@[simp] theorem State.issue_nv (s : State) (t : Transaction) : (s.issue t).nv = s.nv := rfl
@[simp] theorem State.issue_iv (s : State) (t : Transaction) : (s.issue t).iv = s.iv := rfl
@[simp] theorem State.issue_tagin (s : State) (t : Transaction) : (s.issue t).tagin = s.tagin := rfl
@[simp] theorem State.issue_tv (s : State) (t : Transaction) : (s.issue t).tv = s.tv := rfl
@[simp] theorem State.issue_tagout (s : State) (t : Transaction) : (s.issue t).tagout = s.tagout := rfl
@[simp] theorem State.issue_tagv (s : State) (t : Transaction) : (s.issue t).tagv = s.tagv := rfl
@[simp] theorem State.issue_duplex (s : State) (t : Transaction) : (s.issue t).duplex = s.duplex := rfl
@[simp] theorem State.issue_len (s : State) (t : Transaction) : (s.issue t).len = s.len := rfl
@[simp] theorem State.issue_cnt (s : State) (t : Transaction) : (s.issue t).cnt = s.cnt := rfl
@[simp] theorem State.issue_rdp (s : State) (t : Transaction) : (s.issue t).rdp = s.rdp := rfl
@[simp] theorem State.issue_blk (s : State) (t : Transaction) : (s.issue t).blk = s.blk := rfl
@[simp] theorem State.issue_rnd (s : State) (t : Transaction) : (s.issue t).rnd = s.rnd := rfl
@[simp] theorem State.issue_phase (s : State) (t : Transaction) : (s.issue t).phase = s.phase := rfl
@[simp] theorem State.issue_mode (s : State) (t : Transaction) : (s.issue t).mode = s.mode := rfl
@[simp] theorem State.issue_authOk (s : State) (t : Transaction) : (s.issue t).authOk = s.authOk := rfl
@[simp] theorem State.issue_err (s : State) (t : Transaction) : (s.issue t).err = s.err := rfl
@[simp] theorem State.issue_rcaddr (s : State) (t : Transaction) : (s.issue t).rcaddr = s.rcaddr := rfl
@[simp] theorem State.issue_buf (s : State) (t : Transaction) : (s.issue t).buf = s.buf := rfl
@[simp] theorem State.issue_inputs (s : State) (t : Transaction) : (s.issue t).inputs = .host t :: s.inputs := rfl
@[simp] theorem State.issue_rdata (s : State) (t : Transaction) : (s.issue t).rdata = s.rdata := rfl

@[simp] theorem State.resetOf_cfg (c : Config) (noise : List (Nat × Elt)) : (State.resetOf c noise).cfg = c := rfl
@[simp] theorem State.resetOf_k0 (c : Config) (noise : List (Nat × Elt)) : (State.resetOf c noise).k0 = 0 := rfl
@[simp] theorem State.resetOf_k1 (c : Config) (noise : List (Nat × Elt)) : (State.resetOf c noise).k1 = 0 := rfl
@[simp] theorem State.resetOf_k0v (c : Config) (noise : List (Nat × Elt)) : (State.resetOf c noise).k0v = false := rfl
@[simp] theorem State.resetOf_k1v (c : Config) (noise : List (Nat × Elt)) : (State.resetOf c noise).k1v = false := rfl
@[simp] theorem State.resetOf_nonce (c : Config) (noise : List (Nat × Elt)) : (State.resetOf c noise).nonce = 0 := rfl
@[simp] theorem State.resetOf_nv (c : Config) (noise : List (Nat × Elt)) : (State.resetOf c noise).nv = false := rfl
@[simp] theorem State.resetOf_iv (c : Config) (noise : List (Nat × Elt)) : (State.resetOf c noise).iv = 1 := rfl
@[simp] theorem State.resetOf_tagin (c : Config) (noise : List (Nat × Elt)) : (State.resetOf c noise).tagin = 0 := rfl
@[simp] theorem State.resetOf_tv (c : Config) (noise : List (Nat × Elt)) : (State.resetOf c noise).tv = false := rfl
@[simp] theorem State.resetOf_tagout (c : Config) (noise : List (Nat × Elt)) : (State.resetOf c noise).tagout = 0 := rfl
@[simp] theorem State.resetOf_tagv (c : Config) (noise : List (Nat × Elt)) : (State.resetOf c noise).tagv = false := rfl
@[simp] theorem State.resetOf_duplex (c : Config) (noise : List (Nat × Elt)) : (State.resetOf c noise).duplex = Duplex.zero := rfl
@[simp] theorem State.resetOf_len (c : Config) (noise : List (Nat × Elt)) : (State.resetOf c noise).len = 0 := rfl
@[simp] theorem State.resetOf_cnt (c : Config) (noise : List (Nat × Elt)) : (State.resetOf c noise).cnt = 0 := rfl
@[simp] theorem State.resetOf_rdp (c : Config) (noise : List (Nat × Elt)) : (State.resetOf c noise).rdp = 0 := rfl
@[simp] theorem State.resetOf_blk (c : Config) (noise : List (Nat × Elt)) : (State.resetOf c noise).blk = 0 := rfl
@[simp] theorem State.resetOf_rnd (c : Config) (noise : List (Nat × Elt)) : (State.resetOf c noise).rnd = 0 := rfl
@[simp] theorem State.resetOf_phase (c : Config) (noise : List (Nat × Elt)) : (State.resetOf c noise).phase = if c.cfgOk then .idle else .fatal := rfl
@[simp] theorem State.resetOf_mode (c : Config) (noise : List (Nat × Elt)) : (State.resetOf c noise).mode = .encrypt := rfl
@[simp] theorem State.resetOf_authOk (c : Config) (noise : List (Nat × Elt)) : (State.resetOf c noise).authOk = false := rfl
@[simp] theorem State.resetOf_err (c : Config) (noise : List (Nat × Elt)) : (State.resetOf c noise).err = if c.cfgOk then 0 else 1 := rfl
@[simp] theorem State.resetOf_rcaddr (c : Config) (noise : List (Nat × Elt)) : (State.resetOf c noise).rcaddr = 0 := rfl
@[simp] theorem State.resetOf_buf (c : Config) (noise : List (Nat × Elt)) : (State.resetOf c noise).buf = Memory.ofNoise c.maxBlocks c.field.order noise := rfl
@[simp] theorem State.resetOf_inputs (c : Config) (noise : List (Nat × Elt)) : (State.resetOf c noise).inputs = [] := rfl
@[simp] theorem State.resetOf_rdata (c : Config) (noise : List (Nat × Elt)) : (State.resetOf c noise).rdata = 0 := rfl

/-- Raising an exception leaves all but `ERR` as it was (R210, R223). -/
theorem State.raise_eq (s : State) (e : Exc) : s.raise e = { s with err := s.err ||| e.mask } := rfl

/-- A reply leaves all but the word of the read as it was. -/
theorem State.reply_eq (s : State) (v : Nat) : s.reply v = { s with rdata := v } := rfl

end Sys2Proof.Machine
end

