-- ==== Sys2Proof/Laws/Ops.lean ====
section
/-! SUPPORT. What each shared operation can do, said once: the host procedures of R140 and R180, the access to `BUF`
and the ROM, the micro-steps, the fetch. -/

namespace Sys2Proof.Machine

/-! ## Access to `BUF` and the ROM -/

theorem bufRead_eq_some (s : State) (i : Nat) (v : Elt) :
    bufRead s i = some v ↔ i < s.cfg.maxBlocks ∧ s.buf.read i = v := by
  unfold bufRead
  split <;> simp_all

theorem bufWrite_eq_some (s t : State) (i : Nat) (v : Elt) :
    bufWrite s i v = some t ↔ i < s.cfg.maxBlocks ∧ t = { s with buf := s.buf.write i v } := by
  unfold bufWrite
  split <;> simp_all [eq_comm]

/-- Inside the ROM a read gives the word there (R46). -/
theorem romRead_of_lt (c : Config) (i : Nat) (h : i < c.rcDepth) : romRead c i = some (romWord c i) := by
  have h' : i < c.rc.length := h
  simp [romWord, romRead, List.getElem?_eq_getElem h']

theorem romRead_none (c : Config) (i : Nat) : romRead c i = none ↔ c.rcDepth ≤ i := by
  simp [romRead, Config.rcDepth]

/-- In a build with `CFG_OK` true the mask slot is a slot (R7). -/
theorem slot_of_cfgOk (c : Config) (d : Duplex) (h : c.cfgOk = true) : d.slot c.maskSlot = some (maskOf c d) := by
  simp only [Config.cfgOk, decide_eq_true_eq] at h
  obtain ⟨hw, -, -, -, -, -, -, hm⟩ := h
  have : c.maskSlot = 0 ∨ c.maskSlot = 1 ∨ c.maskSlot = 2 := by omega
  rcases this with e | e | e <;> simp [maskOf, e, Duplex.slot]

/-! ## The host procedures -/

/-- All that a host write can do (R140). -/
theorem hostWrite_cases (r : Option Reg) (v : Nat) (commit : State → Result) (s t : State)
    (h : hostWrite r v commit s = .next t) :
    (s.phase = .fatal ∧ t = s) ∨
    (s.phase ≠ .fatal ∧ ∃ e, e ≠ Exc.cfg ∧ e ≠ Exc.auth ∧ t = s.raise e) ∨
    (s.phase ≠ .fatal ∧ ∃ q, r = some q ∧ q.writable = true ∧ q.writePhase s.phase = true ∧
      q.inRange s.cfg v = true ∧ q.writeTest s = none ∧ commit s = .next t) := by
  unfold hostWrite refuseWrite at h
  split at h
  · simp_all
  · rename_i hp
    refine .inr ?_
    split at h
    · exact .inl ⟨hp, .addr, by decide, by decide, by simpa using h.symm⟩
    · rename_i q
      split at h
      · exact .inl ⟨hp, .addr, by decide, by decide, by simpa using h.symm⟩
      · split at h
        · exact .inl ⟨hp, .seq, by decide, by decide, by simpa using h.symm⟩
        · split at h
          · exact .inl ⟨hp, .range, by decide, by decide, by simpa using h.symm⟩
          · split at h
            · rename_i e he
              refine .inl ⟨hp, e, ?_, ?_, by simpa using h.symm⟩ <;>
                (intro hc; subst hc; unfold Reg.writeTest at he; split at he <;> (try split at he) <;> simp_all)
            · exact .inr ⟨hp, q, by simp_all⟩

/-- All that a host read can do (R140). -/
theorem hostRead_cases (r : Option Reg) (value : State → Result) (s t : State)
    (h : hostRead r value s = .next t) :
    (s.phase = .fatal ∧ hiddenInFatal r = true ∧ t = s.reply 0) ∨
    (s.phase ≠ .fatal ∧ ∃ e, e ≠ Exc.cfg ∧ e ≠ Exc.auth ∧ t = (s.raise e).reply 0) ∨
    (∃ q, r = some q ∧ q.readable = true ∧ q.readPhase s.phase = true ∧ q.readTest s = none ∧
      value s = .next t) := by
  unfold hostRead refuseRead at h
  split at h
  · rename_i hp
    exact .inl ⟨hp.1, hp.2, by simpa using h.symm⟩
  · rename_i hp
    refine .inr ?_
    by_cases hf : s.phase = .fatal
    · have hh : hiddenInFatal r = false := by simp_all
      cases r with
      | none => simp [hiddenInFatal] at hh
      | some q =>
        refine .inr ⟨q, rfl, ?_⟩
        cases q <;> simp [hiddenInFatal, Reg.alwaysReadable] at hh <;>
          simp_all [Reg.readable, Reg.access, Reg.readPhase, Reg.readTest]
    · split at h
      · exact .inl ⟨hf, .addr, by decide, by decide, by simpa using h.symm⟩
      · rename_i q
        split at h
        · exact .inl ⟨hf, .addr, by decide, by decide, by simpa using h.symm⟩
        · split at h
          · exact .inl ⟨hf, .seq, by decide, by decide, by simpa using h.symm⟩
          · split at h
            · rename_i e he
              refine .inl ⟨hf, e, ?_, ?_, by simpa using h.symm⟩ <;>
                (intro hc; subst hc; unfold Reg.readTest at he; split at he <;> (try split at he) <;> simp_all)
            · exact .inr ⟨q, by simp_all⟩

/-- All that a plain store can do. -/
theorem plainWrite_cases (r : Reg) (v : Nat) (store : State → State) (s t : State)
    (h : plainWrite r v store s = .next t) :
    (s.phase = .fatal ∧ t = s) ∨
    (s.phase ≠ .fatal ∧ ∃ e, e ≠ Exc.cfg ∧ e ≠ Exc.auth ∧ t = s.raise e) ∨
    (s.phase ≠ .fatal ∧ r.writePhase s.phase = true ∧ r.inRange s.cfg v = true ∧ t = store s) := by
  rcases hostWrite_cases _ _ _ _ _ h with h | h | ⟨hp, q, hq, -, h1, h2, -, h3⟩
  · exact .inl h
  · exact .inr (.inl h)
  · cases hq
    exact .inr (.inr ⟨hp, h1, h2, by simpa using h3.symm⟩)

/-- All that a write to a read-only register can do (R152). -/
theorem writeOfReadOnly_cases (r : Reg) (v : Nat) (s t : State) (h : writeOfReadOnly r v s = .next t) :
    t = s ∨ (s.phase ≠ .fatal ∧ ∃ e, e ≠ Exc.cfg ∧ e ≠ Exc.auth ∧ t = s.raise e) := by
  rcases hostWrite_cases _ _ _ _ _ h with h | h | ⟨-, q, -, -, -, -, -, h3⟩
  · exact .inl h.2
  · exact .inr h
  · exact .inl (by simpa using h3.symm)

/-- All that a read without side effect can do. -/
theorem plainRead_cases (r : Reg) (v : State → Nat) (s t : State) (h : plainRead r v s = .next t) :
    (∃ w, (w = 0 ∨ w = v s) ∧ t = s.reply w) ∨
    (s.phase ≠ .fatal ∧ ∃ e, e ≠ Exc.cfg ∧ e ≠ Exc.auth ∧ t = (s.raise e).reply 0) := by
  rcases hostRead_cases _ _ _ _ h with h | h | ⟨q, -, -, -, -, h3⟩
  · exact .inl ⟨0, .inl rfl, h.2.2⟩
  · exact .inr h
  · exact .inl ⟨v s, .inr rfl, by simpa using h3.symm⟩

/-- All that a read of a write-only register can do (R166): a write-only register is never in a read phase. -/
theorem readOfWriteOnly_cases (r : Reg) (s t : State) (hr : r.readable = false)
    (h : readOfWriteOnly r s = .next t) :
    (s.phase = .fatal ∧ t = s.reply 0) ∨
    (s.phase ≠ .fatal ∧ ∃ e, e ≠ Exc.cfg ∧ e ≠ Exc.auth ∧ t = (s.raise e).reply 0) := by
  rcases hostRead_cases _ _ _ _ h with h | h | ⟨q, hq, h1, -⟩
  · exact .inl ⟨h.1, h.2.2⟩
  · exact .inr h
  · cases hq
    simp [hr] at h1

/-- All that a command can do before its own tests (R180). -/
theorem command_cases (hi : Nat) (act : State → Result) (s t : State) (h : command hi act s = .next t) :
    (s.phase = .fatal ∧ t = s) ∨ (s.phase ≠ .fatal ∧ hi ≠ 0 ∧ t = s.raise .range) ∨
    (s.phase ≠ .fatal ∧ hi = 0 ∧ act s = .next t) := by
  unfold command refuseWrite at h
  split at h
  · simp_all
  · split at h <;> simp_all

/-- All that a start command can do after those (R182, R183). -/
theorem startSession_cases (m : Mode) (s t : State) (h : startSession m s = .next t) :
    (∃ e, (e = Exc.seq ∨ e = Exc.opnd ∨ e = Exc.len) ∧ t = s.raise e) ∨
    (s.phase = .idle ∧ s.operandsValid m = true ∧ s.cnt = s.len.toNat ∧ t = s.beginSession m) := by
  unfold startSession refuseWrite at h
  split at h
  · exact .inl ⟨.seq, by simp, by simpa using h.symm⟩
  · split at h
    · exact .inl ⟨.opnd, by simp, by simpa using h.symm⟩
    · split at h
      · exact .inl ⟨.len, by simp, by simpa using h.symm⟩
      · refine .inr ?_
        simp_all

/-- All that `CLR` can do after those (R184). -/
theorem clearSession_cases (s t : State) (h : clearSession s = .next t) :
    (s.phase.busy = true ∧ t = s.raise .seq) ∨ (s.phase.busy = false ∧ t = s.clear) := by
  unfold clearSession refuseWrite at h
  split at h <;> simp_all

/-! ## The sequencer -/

/-- A round, where it answers (R99). -/
theorem roundStep_cases (base : Nat) (s t : State) (h : roundStep base s = .next t) :
    base + s.rnd < s.cfg.rcDepth ∧
      t = { s with duplex := roundOf s.cfg s.duplex (romWord s.cfg (base + s.rnd)), rnd := s.rnd + 1 } := by
  unfold roundStep at h
  split at h
  · simp at h
  · rename_i rc hrc
    have hlt : base + s.rnd < s.cfg.rcDepth := by
      by_contra hge
      rw [(romRead_none _ _).mpr (not_lt.mp hge)] at hrc
      simp at hrc
    rw [romRead_of_lt _ _ hlt] at hrc
    cases hrc
    exact ⟨hlt, by simpa using h.symm⟩

/-- A round inside the ROM answers (R99). -/
theorem roundStep_next (base : Nat) (s : State) (h : base + s.rnd < s.cfg.rcDepth) :
    roundStep base s =
      .next { s with duplex := roundOf s.cfg s.duplex (romWord s.cfg (base + s.rnd)), rnd := s.rnd + 1 } := by
  simp [roundStep, romRead_of_lt _ _ h]

/-- `ROLL-commit`, where it answers (R194). -/
theorem rollCommit_cases (s t : State) (h : rollCommit s = .next t) :
    s.blk < s.cfg.maxBlocks ∧ ∃ m, s.duplex.slot s.cfg.maskSlot = some m ∧
      t = { s with
        buf := s.buf.write s.blk (maskBlock s.cfg s.mode (s.buf.read s.blk) m),
        duplex := refillOf s.cfg s.duplex, blk := s.blk + 1, rnd := 0,
        phase := if s.blk + 1 = s.len.toNat then .fin else .roll } := by
  unfold rollCommit at h
  split at h
  · simp at h
  · rename_i m hm
    split at h
    · simp at h
    · rename_i x hx
      obtain ⟨hlt, rfl⟩ := (bufRead_eq_some _ _ _).mp hx
      split at h
      · simp at h
      · rename_i u hu
        obtain ⟨-, rfl⟩ := (bufWrite_eq_some _ _ _ _).mp hu
        exact ⟨hlt, m, hm, by simpa using h.symm⟩

/-- Which micro-step a turn takes, and what holds then (R190). -/
theorem microStep_cases (s t : State) (h : microStep s = .next t) :
    (enabledStep s = none ∧ t = s) ∨
    (s.phase = .ks ∧ s.rnd < s.cfg.rBig ∧ ksRound s = .next t) ∨
    (s.phase = .ks ∧ s.rnd = s.cfg.rBig ∧ ksExit s = .next t) ∨
    (s.phase = .roll ∧ s.rnd < s.cfg.rSmall ∧ rollRound s = .next t) ∨
    (s.phase = .roll ∧ s.rnd = s.cfg.rSmall ∧ rollCommit s = .next t) ∨
    (s.phase = .fin ∧ s.rnd < s.cfg.rSmall ∧ finRound s = .next t) ∨
    (s.phase = .fin ∧ s.rnd = s.cfg.rSmall ∧ s.mode = .encrypt ∧ finCommitEnc s = .next t) ∨
    (s.phase = .fin ∧ s.rnd = s.cfg.rSmall ∧ s.mode = .decrypt ∧ s.duplex.slot s.cfg.maskSlot = some s.tagin ∧
      finCommitDecOk s = .next t) ∨
    (s.phase = .fin ∧ s.rnd = s.cfg.rSmall ∧ s.mode = .decrypt ∧ s.duplex.slot s.cfg.maskSlot ≠ some s.tagin ∧
      finCommitDecFail s = .next t) := by
  unfold microStep at h
  split at h
  · rename_i he
    exact .inl ⟨he, by simpa using h.symm⟩
  · rename_i m he
    refine .inr ?_
    unfold enabledStep at he
    split at he
    · split at he
      · cases he; simp_all [runStep]
      · split at he
        · cases he; simp_all [runStep]
        · simp at he
    · split at he
      · cases he; simp_all [runStep]
      · split at he
        · cases he; simp_all [runStep]
        · simp at he
    · split at he
      · cases he; simp_all [runStep]
      · split at he
        · split at he
          · cases he; simp_all [runStep]
          · split at he
            · cases he; simp_all [runStep]
            · cases he; simp_all [runStep]
        · simp at he
    all_goals simp at he

/-- A turn of the sequencer that does not fault answers a next state; it never refuses. -/
theorem microStep_not_refused (s : State) (r : Refusal) : microStep s ≠ .refused r := by
  unfold microStep
  split
  · simp
  · rename_i m _
    cases m <;>
      simp only [runStep, ksRound, ksExit, rollRound, rollCommit, finRound, finCommitEnc, finCommitDecOk,
        finCommitDecFail, roundStep] <;>
      (repeat' split) <;> simp

/-! ## The fetch -/

/-- All that a step can do: an operation, a turn of the sequencer, or the reset event (R9, R53). -/
theorem step_cases (s t : State) (h : step s = .next t) :
    (∃ tr rest i, s.inputs = .host tr :: rest ∧ decode s.cfg.dw tr = .ok i ∧
      exec i { s with inputs := rest } = .next t) ∨
    (∃ rest, (s.inputs = .engine :: rest ∨ s.inputs = [] ∧ rest = []) ∧
      microStep { s with inputs := rest } = .next t) ∨
    (∃ noise rest, s.inputs = .reset noise :: rest ∧ t = State.resetEvent { s with inputs := rest } noise) := by
  unfold step fetch at h
  cases hi : s.inputs with
  | nil =>
    simp only [hi] at h
    refine .inr (.inl ⟨[], .inr ⟨rfl, rfl⟩, ?_⟩)
    rw [← hi]
    exact h
  | cons e rest =>
    cases e with
    | engine =>
      simp only [hi] at h
      exact .inr (.inl ⟨rest, .inl rfl, h⟩)
    | reset noise =>
      simp only [hi] at h
      exact .inr (.inr ⟨noise, rest, rfl, by simpa using h.symm⟩)
    | host tr =>
      simp only [hi] at h
      cases hd : decode s.cfg.dw tr with
      | error why => simp [hd] at h
      | ok i =>
        simp only [hd] at h
        exact .inl ⟨tr, rest, i, rfl, hd, h⟩

end Sys2Proof.Machine
end

