-- ==== Sys2Proof/Laws/Host.lean ====
section
/-! SUPPORT. All that one host operation can do, said once: the inversion of `exec`, from which the claims about every
operation follow without unfolding a meaning. -/

namespace Sys2Proof.Machine

/-- What the host operation `i` can make of the state `s` where it answers a next state (R140, R180). -/
inductive HostEffect : Instr → State → State → Prop where
  /-- Nothing: `NOP`, and every write and command in `FATAL` (R143, R181). -/
  | nothing (i : Instr) (s : State) (hr : isRead i = false) : HostEffect i s s
  /-- A refused write or command (R210). -/
  | refused (i : Instr) (s : State) (e : Exc) (hr : isRead i = false) (hp : s.phase ≠ .fatal) (h0 : e ≠ .cfg)
      (h1 : e ≠ .auth) : HostEffect i s (s.raise e)
  /-- A refused read (R210). -/
  | refusedRead (i : Instr) (s : State) (e : Exc) (hr : isRead i = true) (hp : s.phase ≠ .fatal) (h0 : e ≠ .cfg)
      (h1 : e ≠ .auth) : HostEffect i s ((s.raise e).reply 0)
  /-- A read without side effect (R142). -/
  | reply (i : Instr) (s : State) (v : Nat) (hr : isRead i = true) : HostEffect i s (s.reply v)
  /-- A pop (R162). -/
  | pop (s : State) (hp : s.phase = .done) (h : s.rdp < s.cnt) (hm : s.rdp < s.cfg.maxBlocks) :
      HostEffect .rdDout s (State.reply { s with rdp := s.rdp + 1 } (s.buf.read s.rdp))
  | k0 (s : State) (v : Nat) (hp : s.phase = .idle) (hv : v < s.cfg.field.order) :
      HostEffect (.wrK0 v) s { s with k0 := v, k0v := true }
  | k1 (s : State) (v : Nat) (hp : s.phase = .idle) (hv : v < s.cfg.field.order) :
      HostEffect (.wrK1 v) s { s with k1 := v, k1v := true }
  | nonce (s : State) (v : Nat) (hp : s.phase = .idle) (hv : v < s.cfg.field.order) :
      HostEffect (.wrNonce v) s { s with nonce := v, nv := true }
  | iv (s : State) (v : Nat) (hp : s.phase = .idle) (hv : v < s.cfg.field.order) :
      HostEffect (.wrIv v) s { s with iv := v }
  | tagin (s : State) (v : Nat) (hp : s.phase = .idle) (hv : v < s.cfg.field.order) :
      HostEffect (.wrTagin v) s { s with tagin := v, tv := true }
  | len (s : State) (v : Nat) (hp : s.phase = .idle) (hv : v < 2 ^ 32) :
      HostEffect (.wrLen v) s { s with len := BitVec.ofNat 32 v }
  | rcaddr (s : State) (v : Nat) (hp : s.phase = .idle ∨ s.phase = .done ∨ s.phase = .fail) (hv : v < 2 ^ 32) :
      HostEffect (.wrRcaddr v) s { s with rcaddr := BitVec.ofNat 32 v }
  /-- A push (R150). -/
  | push (s : State) (v : Nat) (hp : s.phase = .idle) (hv : v < s.cfg.field.order) (hm : s.cnt < s.cfg.maxBlocks) :
      HostEffect (.wrDin v) s { s with buf := s.buf.write s.cnt v, cnt := s.cnt + 1 }
  /-- An accepted start (R182, R183). -/
  | start (i : Instr) (s : State) (m : Mode) (hi : i = .cmdStartEnc 0 ∧ m = .encrypt ∨ i = .cmdStartDec 0 ∧ m = .decrypt)
      (hp : s.phase = .idle) (ho : s.operandsValid m = true) (hl : s.cnt = s.len.toNat) :
      HostEffect i s (s.beginSession m)
  /-- An accepted `CLR` (R184). -/
  | clear (s : State) (hp : s.phase = .idle ∨ s.phase = .done ∨ s.phase = .fail) : HostEffect (.cmdClr 0) s s.clear

theorem HostEffect.of_plainRead (i : Instr) (hr : isRead i = true) (r : Reg) (v : State → Nat) (s t : State)
    (h : plainRead r v s = .next t) : HostEffect i s t := by
  rcases plainRead_cases r v s t h with ⟨w, -, rfl⟩ | ⟨hp, e, h0, h1, rfl⟩
  · exact .reply i s w hr
  · exact .refusedRead i s e hr hp h0 h1

theorem HostEffect.of_readOfWriteOnly (i : Instr) (hr : isRead i = true) (r : Reg) (hw : r.readable = false)
    (s t : State) (h : readOfWriteOnly r s = .next t) : HostEffect i s t := by
  rcases readOfWriteOnly_cases r s t hw h with ⟨-, rfl⟩ | ⟨hp, e, h0, h1, rfl⟩
  · exact .reply i s 0 hr
  · exact .refusedRead i s e hr hp h0 h1

theorem HostEffect.of_writeOfReadOnly (i : Instr) (hr : isRead i = false) (r : Reg) (v : Nat) (s t : State)
    (h : writeOfReadOnly r v s = .next t) : HostEffect i s t := by
  rcases writeOfReadOnly_cases r v s t h with rfl | ⟨hp, e, h0, h1, rfl⟩
  · exact .nothing i _ hr
  · exact .refused i s e hr hp h0 h1

/-- A plain store is one of its own effect, a refusal, or nothing. -/
theorem HostEffect.of_plainWrite (i : Instr) (hr : isRead i = false) (r : Reg) (v : Nat) (store : State → State)
    (s t : State) (h : plainWrite r v store s = .next t)
    (hs : r.writePhase s.phase = true → r.inRange s.cfg v = true → HostEffect i s (store s)) : HostEffect i s t := by
  rcases plainWrite_cases r v store s t h with ⟨-, rfl⟩ | ⟨hp, e, h0, h1, rfl⟩ | ⟨-, h1, h2, rfl⟩
  · exact .nothing i _ hr
  · exact .refused i s e hr hp h0 h1
  · exact hs h1 h2

theorem HostEffect.of_push (v : Nat) (s t : State) (h : execWrDin v s = .next t) : HostEffect (.wrDin v) s t := by
  rcases hostWrite_cases _ _ _ _ _ h with ⟨-, rfl⟩ | ⟨hp, e, h0, h1, rfl⟩ | ⟨-, q, hq, -, h1, h2, h3, h4⟩
  · exact .nothing _ _ rfl
  · exact .refused _ s e rfl hp h0 h1
  · cases hq
    unfold pushElement at h4
    split at h4
    · simp at h4
    · rename_i u hu
      obtain ⟨hlt, rfl⟩ := (bufWrite_eq_some _ _ _ _).mp hu
      have ht : t = { s with buf := s.buf.write s.cnt v, cnt := s.cnt + 1 } := by simpa using h4.symm
      rw [ht]
      exact .push s v (by simpa [Reg.writePhase] using h1)
        (by simpa [Reg.inRange, Reg.kind, FieldSpec.canonical] using h2) hlt

theorem HostEffect.of_pop (s t : State) (h : execRdDout s = .next t) : HostEffect .rdDout s t := by
  rcases hostRead_cases _ _ _ _ h with ⟨-, -, rfl⟩ | ⟨hp, e, h0, h1, rfl⟩ | ⟨q, hq, -, h1, h2, h3⟩
  · exact .reply _ s 0 rfl
  · exact .refusedRead _ s e rfl hp h0 h1
  · cases hq
    unfold popElement at h3
    split at h3
    · simp at h3
    · rename_i v hv
      obtain ⟨hlt, rfl⟩ := (bufRead_eq_some _ _ _).mp hv
      have ht : t = State.reply { s with rdp := s.rdp + 1 } (s.buf.read s.rdp) := by simpa using h3.symm
      rw [ht]
      exact .pop s (by simpa [Reg.readPhase] using h1) (by simpa [Reg.readTest] using h2) hlt

theorem HostEffect.of_romWindow (s t : State) (h : execRdRcdata s = .next t) : HostEffect .rdRcdata s t := by
  rcases hostRead_cases _ _ _ _ h with ⟨-, -, rfl⟩ | ⟨hp, e, h0, h1, rfl⟩ | ⟨q, hq, -, -, -, h3⟩
  · exact .reply _ s 0 rfl
  · exact .refusedRead _ s e rfl hp h0 h1
  · cases hq
    unfold romWindow at h3
    split at h3
    · simp at h3
    · rename_i v hv
      have ht : t = s.reply v := by simpa using h3.symm
      rw [ht]
      exact .reply _ s v rfl

theorem HostEffect.of_start (i : Instr) (hr : isRead i = false) (hi : Nat) (m : Mode) (s t : State)
    (hm : hi = 0 → i = .cmdStartEnc 0 ∧ m = .encrypt ∨ i = .cmdStartDec 0 ∧ m = .decrypt)
    (h : command hi (startSession m) s = .next t) : HostEffect i s t := by
  rcases command_cases _ _ _ _ h with ⟨-, rfl⟩ | ⟨hp, -, rfl⟩ | ⟨hp, h0, h1⟩
  · exact .nothing i _ hr
  · exact .refused i s .range hr hp (by decide) (by decide)
  · rcases startSession_cases m s t h1 with ⟨e, he, rfl⟩ | ⟨h2, h3, h4, rfl⟩
    · exact .refused i s e hr hp (by rcases he with rfl | rfl | rfl <;> decide)
        (by rcases he with rfl | rfl | rfl <;> decide)
    · exact .start i s m (hm h0) h2 h3 h4

theorem HostEffect.of_clear (hi : Nat) (s t : State) (h : execCmdClr hi s = .next t) :
    HostEffect (.cmdClr hi) s t := by
  rcases command_cases _ _ _ _ h with ⟨-, rfl⟩ | ⟨hp, -, rfl⟩ | ⟨hp, rfl, h1⟩
  · exact .nothing _ _ rfl
  · exact .refused _ s .range rfl hp (by decide) (by decide)
  · rcases clearSession_cases s t h1 with ⟨-, rfl⟩ | ⟨hb, rfl⟩
    · exact .refused _ s .seq rfl hp (by decide) (by decide)
    · refine .clear s ?_
      cases hs : s.phase <;> simp_all [Phase.busy]

/-- The inversion of `exec`: every next state is one of the effects above. -/
theorem exec_effect (i : Instr) (s t : State) (h : exec i s = .next t) : HostEffect i s t := by
  cases i with
  | cmdNop hi =>
    rcases command_cases _ _ _ _ h with ⟨-, rfl⟩ | ⟨hp, -, rfl⟩ | ⟨-, -, h1⟩
    · exact .nothing _ _ rfl
    · exact .refused _ s .range rfl hp (by decide) (by decide)
    · have ht : t = s := by simpa using h1.symm
      rw [ht]
      exact .nothing _ _ rfl
  | cmdStartEnc hi => exact .of_start _ rfl hi .encrypt s t (fun e => .inl ⟨by rw [e], rfl⟩) h
  | cmdStartDec hi => exact .of_start _ rfl hi .decrypt s t (fun e => .inr ⟨by rw [e], rfl⟩) h
  | cmdClr hi => exact .of_clear hi s t h
  | cmdReserved v =>
    rcases command_cases _ _ _ _ h with ⟨-, rfl⟩ | ⟨hp, -, rfl⟩ | ⟨hp, -, h1⟩
    · exact .nothing _ _ rfl
    · exact .refused _ s .range rfl hp (by decide) (by decide)
    · have ht : t = s.raise .cmd := by simpa [refuseWrite] using h1.symm
      rw [ht]
      exact .refused _ s .cmd rfl hp (by decide) (by decide)
  | rdCmd => exact .of_readOfWriteOnly _ rfl .cmd rfl s t h
  | wrStatus v => exact .of_writeOfReadOnly _ rfl .status v s t h
  | rdStatus => exact .of_plainRead _ rfl .status (fun s => s.statusWord) s t h
  | wrErr v => exact .of_writeOfReadOnly _ rfl .err v s t h
  | rdErr => exact .of_plainRead _ rfl .err (fun s => s.errWord) s t h
  | wrLen v =>
    exact .of_plainWrite _ rfl .len v (fun s => { s with len := BitVec.ofNat 32 v }) s t h fun h1 h2 => .len s v (by simpa [Reg.writePhase] using h1)
      (by simpa [Reg.inRange, Reg.kind] using h2)
  | rdLen => exact .of_plainRead _ rfl .len (fun s => s.len.toNat) s t h
  | wrCnt v => exact .of_writeOfReadOnly _ rfl .cnt v s t h
  | rdCnt => exact .of_plainRead _ rfl .cnt (fun s => s.cnt) s t h
  | wrBlk v => exact .of_writeOfReadOnly _ rfl .blk v s t h
  | rdBlk => exact .of_plainRead _ rfl .blk (fun s => s.blk) s t h
  | wrK0 v =>
    exact .of_plainWrite _ rfl .k0 v (fun s => { s with k0 := v, k0v := true }) s t h fun h1 h2 => .k0 s v (by simpa [Reg.writePhase] using h1)
      (by simpa [Reg.inRange, Reg.kind, FieldSpec.canonical] using h2)
  | rdK0 => exact .of_readOfWriteOnly _ rfl .k0 rfl s t h
  | wrK1 v =>
    exact .of_plainWrite _ rfl .k1 v (fun s => { s with k1 := v, k1v := true }) s t h fun h1 h2 => .k1 s v (by simpa [Reg.writePhase] using h1)
      (by simpa [Reg.inRange, Reg.kind, FieldSpec.canonical] using h2)
  | rdK1 => exact .of_readOfWriteOnly _ rfl .k1 rfl s t h
  | wrNonce v =>
    exact .of_plainWrite _ rfl .nonce v (fun s => { s with nonce := v, nv := true }) s t h fun h1 h2 => .nonce s v (by simpa [Reg.writePhase] using h1)
      (by simpa [Reg.inRange, Reg.kind, FieldSpec.canonical] using h2)
  | rdNonce => exact .of_plainRead _ rfl .nonce (fun s => s.nonce) s t h
  | wrIv v =>
    exact .of_plainWrite _ rfl .iv v (fun s => { s with iv := v }) s t h fun h1 h2 => .iv s v (by simpa [Reg.writePhase] using h1)
      (by simpa [Reg.inRange, Reg.kind, FieldSpec.canonical] using h2)
  | rdIv => exact .of_plainRead _ rfl .iv (fun s => s.iv) s t h
  | wrTagin v =>
    exact .of_plainWrite _ rfl .tagin v (fun s => { s with tagin := v, tv := true }) s t h fun h1 h2 => .tagin s v (by simpa [Reg.writePhase] using h1)
      (by simpa [Reg.inRange, Reg.kind, FieldSpec.canonical] using h2)
  | rdTagin => exact .of_plainRead _ rfl .tagin (fun s => s.tagin) s t h
  | wrTagout v => exact .of_writeOfReadOnly _ rfl .tagout v s t h
  | rdTagout => exact .of_plainRead _ rfl .tagout (fun s => s.tagout) s t h
  | wrDin v => exact .of_push v s t h
  | rdDin => exact .of_readOfWriteOnly _ rfl .din rfl s t h
  | wrDout v => exact .of_writeOfReadOnly _ rfl .dout v s t h
  | rdDout => exact .of_pop s t h
  | wrRcaddr v =>
    refine .of_plainWrite _ rfl .rcaddr v (fun s => { s with rcaddr := BitVec.ofNat 32 v }) s t h fun h1 h2 => .rcaddr s v ?_ (by simpa [Reg.inRange, Reg.kind] using h2)
    cases hs : s.phase <;> simp_all [Reg.writePhase, Phase.settled]
  | rdRcaddr => exact .of_plainRead _ rfl .rcaddr (fun s => s.rcaddr.toNat) s t h
  | wrRcdata v => exact .of_writeOfReadOnly _ rfl .rcdata v s t h
  | rdRcdata => exact .of_romWindow s t h
  | wrCfgField v => exact .of_writeOfReadOnly _ rfl .cfgField v s t h
  | rdCfgField => exact .of_plainRead _ rfl .cfgField (fun s => s.cfg.fieldWord) s t h
  | wrCfgW v => exact .of_writeOfReadOnly _ rfl .cfgW v s t h
  | rdCfgW => exact .of_plainRead _ rfl .cfgW (fun s => s.cfg.widthWord) s t h
  | wrCfgRbig v => exact .of_writeOfReadOnly _ rfl .cfgRbig v s t h
  | rdCfgRbig => exact .of_plainRead _ rfl .cfgRbig (fun s => s.cfg.rBig) s t h
  | wrCfgRsmall v => exact .of_writeOfReadOnly _ rfl .cfgRsmall v s t h
  | rdCfgRsmall => exact .of_plainRead _ rfl .cfgRsmall (fun s => s.cfg.rSmall) s t h
  | wrCfgRcoff v => exact .of_writeOfReadOnly _ rfl .cfgRcoff v s t h
  | rdCfgRcoff => exact .of_plainRead _ rfl .cfgRcoff (fun s => s.cfg.rcOffset) s t h
  | wrCfgRcdepth v => exact .of_writeOfReadOnly _ rfl .cfgRcdepth v s t h
  | rdCfgRcdepth => exact .of_plainRead _ rfl .cfgRcdepth (fun s => s.cfg.rcDepth) s t h
  | wrCfgMaxblk v => exact .of_writeOfReadOnly _ rfl .cfgMaxblk v s t h
  | rdCfgMaxblk => exact .of_plainRead _ rfl .cfgMaxblk (fun s => s.cfg.maxBlocks) s t h
  | wrCfgSlot v => exact .of_writeOfReadOnly _ rfl .cfgSlot v s t h
  | rdCfgSlot => exact .of_plainRead _ rfl .cfgSlot (fun s => s.cfg.slotWord) s t h
  | wrCfgMod v => exact .of_writeOfReadOnly _ rfl .cfgMod v s t h
  | rdCfgMod => exact .of_plainRead _ rfl .cfgMod (fun s => s.cfg.modWord) s t h
  | wrCfgRefillv v => exact .of_writeOfReadOnly _ rfl .cfgRefillv v s t h
  | rdCfgRefillv => exact .of_plainRead _ rfl .cfgRefillv (fun s => s.cfg.refillWord) s t h
  | wrUndefined a v =>
    rcases hostWrite_cases none v (fun s => .next s) s t h with ⟨-, rfl⟩ | ⟨hp, e, h0, h1, rfl⟩ | ⟨-, q, hq, -⟩
    · exact .nothing _ _ rfl
    · exact .refused _ s e rfl hp h0 h1
    · simp at hq
  | rdUndefined a =>
    rcases hostRead_cases none (fun s => .next s) s t h with ⟨-, -, rfl⟩ | ⟨hp, e, h0, h1, rfl⟩ | ⟨q, hq, -⟩
    · exact .reply _ s 0 rfl
    · exact .refusedRead _ s e rfl hp h0 h1
    · simp at hq

/-- A host write answers no refusal unless the write of its own rule does. -/
theorem hostWrite_not_refused (q : Option Reg) (v : Nat) (f : State → Result) (s : State) (r : Refusal)
    (hf : f s ≠ .refused r) : hostWrite q v f s ≠ .refused r := by
  unfold hostWrite refuseWrite
  (repeat' split) <;> simp_all

/-- A host read answers no refusal unless the read of its own rule does. -/
theorem hostRead_not_refused (q : Option Reg) (f : State → Result) (s : State) (r : Refusal)
    (hf : f s ≠ .refused r) : hostRead q f s ≠ .refused r := by
  unfold hostRead refuseRead
  (repeat' split) <;> simp_all

/-- A command answers no refusal unless its own rule does. -/
theorem command_not_refused (hi : Nat) (f : State → Result) (s : State) (r : Refusal)
    (hf : f s ≠ .refused r) : command hi f s ≠ .refused r := by
  unfold command refuseWrite
  (repeat' split) <;> simp_all

theorem plainWrite_not_refused (q : Reg) (v : Nat) (f : State → State) (s : State) (r : Refusal) :
    plainWrite q v f s ≠ .refused r :=
  hostWrite_not_refused _ _ _ _ _ (by simp)

theorem writeOfReadOnly_not_refused (q : Reg) (v : Nat) (s : State) (r : Refusal) :
    writeOfReadOnly q v s ≠ .refused r :=
  hostWrite_not_refused _ _ _ _ _ (by simp)

theorem plainRead_not_refused (q : Reg) (f : State → Nat) (s : State) (r : Refusal) :
    plainRead q f s ≠ .refused r :=
  hostRead_not_refused _ _ _ _ (by simp)

theorem readOfWriteOnly_not_refused (q : Reg) (s : State) (r : Refusal) : readOfWriteOnly q s ≠ .refused r :=
  hostRead_not_refused _ _ _ _ (by simp)

theorem startSession_not_refused (m : Mode) (s : State) (r : Refusal) : startSession m s ≠ .refused r := by
  unfold startSession refuseWrite
  (repeat' split) <;> simp

/-- A host operation never refuses. -/
theorem exec_not_refused (i : Instr) (s : State) (r : Refusal) : exec i s ≠ .refused r := by
  cases i with
  | cmdNop hi => exact command_not_refused hi (fun s => .next s) s r (by simp)
  | cmdStartEnc hi => exact command_not_refused hi (startSession .encrypt) s r (startSession_not_refused _ s r)
  | cmdStartDec hi => exact command_not_refused hi (startSession .decrypt) s r (startSession_not_refused _ s r)
  | cmdClr hi =>
    refine command_not_refused hi clearSession s r ?_
    unfold clearSession refuseWrite
    split <;> simp
  | cmdReserved v => exact command_not_refused (v / 2 ^ 32) (refuseWrite .cmd) s r (by simp [refuseWrite])
  | rdCmd => exact readOfWriteOnly_not_refused .cmd s r
  | wrStatus v => exact writeOfReadOnly_not_refused .status v s r
  | rdStatus => exact plainRead_not_refused .status (fun s => s.statusWord) s r
  | wrErr v => exact writeOfReadOnly_not_refused .err v s r
  | rdErr => exact plainRead_not_refused .err (fun s => s.errWord) s r
  | wrLen v => exact plainWrite_not_refused .len v (fun s => { s with len := BitVec.ofNat 32 v }) s r
  | rdLen => exact plainRead_not_refused .len (fun s => s.len.toNat) s r
  | wrCnt v => exact writeOfReadOnly_not_refused .cnt v s r
  | rdCnt => exact plainRead_not_refused .cnt (fun s => s.cnt) s r
  | wrBlk v => exact writeOfReadOnly_not_refused .blk v s r
  | rdBlk => exact plainRead_not_refused .blk (fun s => s.blk) s r
  | wrK0 v => exact plainWrite_not_refused .k0 v (fun s => { s with k0 := v, k0v := true }) s r
  | rdK0 => exact readOfWriteOnly_not_refused .k0 s r
  | wrK1 v => exact plainWrite_not_refused .k1 v (fun s => { s with k1 := v, k1v := true }) s r
  | rdK1 => exact readOfWriteOnly_not_refused .k1 s r
  | wrNonce v => exact plainWrite_not_refused .nonce v (fun s => { s with nonce := v, nv := true }) s r
  | rdNonce => exact plainRead_not_refused .nonce (fun s => s.nonce) s r
  | wrIv v => exact plainWrite_not_refused .iv v (fun s => { s with iv := v }) s r
  | rdIv => exact plainRead_not_refused .iv (fun s => s.iv) s r
  | wrTagin v => exact plainWrite_not_refused .tagin v (fun s => { s with tagin := v, tv := true }) s r
  | rdTagin => exact plainRead_not_refused .tagin (fun s => s.tagin) s r
  | wrTagout v => exact writeOfReadOnly_not_refused .tagout v s r
  | rdTagout => exact plainRead_not_refused .tagout (fun s => s.tagout) s r
  | wrDin v =>
    refine hostWrite_not_refused (some .din) v (pushElement v) s r ?_
    unfold pushElement
    split <;> simp
  | rdDin => exact readOfWriteOnly_not_refused .din s r
  | wrDout v => exact writeOfReadOnly_not_refused .dout v s r
  | rdDout =>
    refine hostRead_not_refused (some .dout) popElement s r ?_
    unfold popElement
    split <;> simp
  | wrRcaddr v => exact plainWrite_not_refused .rcaddr v (fun s => { s with rcaddr := BitVec.ofNat 32 v }) s r
  | rdRcaddr => exact plainRead_not_refused .rcaddr (fun s => s.rcaddr.toNat) s r
  | wrRcdata v => exact writeOfReadOnly_not_refused .rcdata v s r
  | rdRcdata =>
    refine hostRead_not_refused (some .rcdata) romWindow s r ?_
    unfold romWindow
    split <;> simp
  | wrCfgField v => exact writeOfReadOnly_not_refused .cfgField v s r
  | rdCfgField => exact plainRead_not_refused .cfgField (fun s => s.cfg.fieldWord) s r
  | wrCfgW v => exact writeOfReadOnly_not_refused .cfgW v s r
  | rdCfgW => exact plainRead_not_refused .cfgW (fun s => s.cfg.widthWord) s r
  | wrCfgRbig v => exact writeOfReadOnly_not_refused .cfgRbig v s r
  | rdCfgRbig => exact plainRead_not_refused .cfgRbig (fun s => s.cfg.rBig) s r
  | wrCfgRsmall v => exact writeOfReadOnly_not_refused .cfgRsmall v s r
  | rdCfgRsmall => exact plainRead_not_refused .cfgRsmall (fun s => s.cfg.rSmall) s r
  | wrCfgRcoff v => exact writeOfReadOnly_not_refused .cfgRcoff v s r
  | rdCfgRcoff => exact plainRead_not_refused .cfgRcoff (fun s => s.cfg.rcOffset) s r
  | wrCfgRcdepth v => exact writeOfReadOnly_not_refused .cfgRcdepth v s r
  | rdCfgRcdepth => exact plainRead_not_refused .cfgRcdepth (fun s => s.cfg.rcDepth) s r
  | wrCfgMaxblk v => exact writeOfReadOnly_not_refused .cfgMaxblk v s r
  | rdCfgMaxblk => exact plainRead_not_refused .cfgMaxblk (fun s => s.cfg.maxBlocks) s r
  | wrCfgSlot v => exact writeOfReadOnly_not_refused .cfgSlot v s r
  | rdCfgSlot => exact plainRead_not_refused .cfgSlot (fun s => s.cfg.slotWord) s r
  | wrCfgMod v => exact writeOfReadOnly_not_refused .cfgMod v s r
  | rdCfgMod => exact plainRead_not_refused .cfgMod (fun s => s.cfg.modWord) s r
  | wrCfgRefillv v => exact writeOfReadOnly_not_refused .cfgRefillv v s r
  | rdCfgRefillv => exact plainRead_not_refused .cfgRefillv (fun s => s.cfg.refillWord) s r
  | wrUndefined a v => exact hostWrite_not_refused none v (fun s => .next s) s r (by simp)
  | rdUndefined a => exact hostRead_not_refused none (fun s => .next s) s r (by simp)

end Sys2Proof.Machine
end

