-- ==== Sys2Proof/Laws/Memory.lean ====
section
/-! SUPPORT. `BUF`: a read after a write, and every operation keeps the canonical form (R43, R44). -/

namespace Sys2Proof.Machine

@[simp] theorem Memory.read_nil (i : Nat) : Memory.read [] i = 0 := rfl

theorem Memory.wf_cons (c : Nat × Elt) (m : Memory) :
    Memory.wf (c :: m) = true ↔ c.2 ≠ 0 ∧ (∀ d ∈ m, c.1 < d.1) ∧ Memory.wf m = true := by
  simp [Memory.wf, Memory.unlisted, and_assoc]

/-- An index below every listed one is not listed. -/
theorem Memory.read_of_lt (m : Memory) (i : Nat) (h : ∀ d ∈ m, i < d.1) : Memory.read m i = 0 := by
  induction m with
  | nil => rfl
  | cons c m ih =>
    have hc := h c (by simp)
    rw [Memory.read, if_neg (by omega)]
    exact ih fun d hd => h d (by simp [hd])

/-- A write adds no index but its own. -/
theorem Memory.mem_write (m : Memory) (i : Nat) (v : Elt) (d : Nat × Elt) (h : d ∈ Memory.write m i v) :
    d = (i, v) ∨ d ∈ m := by
  induction m with
  | nil =>
    rw [Memory.write] at h
    split at h <;> simp_all
  | cons c m ih =>
    rw [Memory.write] at h
    split at h
    · split at h <;> simp_all
    · split at h
      · split at h <;> simp_all
        tauto
      · rcases List.mem_cons.mp h with rfl | h
        · simp
        · rcases ih h with h | h <;> simp [h]

/-- A write keeps the canonical form. -/
theorem Memory.wf_write (m : Memory) (i : Nat) (v : Elt) (h : m.wf = true) : (m.write i v).wf = true := by
  induction m with
  | nil =>
    rw [Memory.write]
    split <;> simp_all [Memory.wf, Memory.unlisted]
  | cons c m ih =>
    obtain ⟨hc, hm, hw⟩ := (Memory.wf_cons c m).mp h
    rw [Memory.write]
    split
    · rename_i hlt
      split
      · exact h
      · rename_i hv
        refine (Memory.wf_cons _ _).mpr ⟨hv, ?_, h⟩
        intro d hd
        rcases List.mem_cons.mp hd with rfl | hd
        · exact hlt
        · exact lt_trans hlt (hm d hd)
    · split
      · rename_i heq
        split
        · exact hw
        · rename_i hv
          exact (Memory.wf_cons _ _).mpr ⟨hv, fun d hd => heq ▸ hm d hd, hw⟩
      · refine (Memory.wf_cons _ _).mpr ⟨hc, ?_, ih hw⟩
        intro d hd
        rcases Memory.mem_write m i v d hd with rfl | hd
        · simp only
          omega
        · exact hm d hd

/-- A read of the cell written gives the element written (R43, R44). -/
theorem Memory.read_write_same (m : Memory) (i : Nat) (v : Elt) (h : m.wf = true) : (m.write i v).read i = v := by
  induction m with
  | nil =>
    rw [Memory.write]
    split <;> simp_all [Memory.read, Memory.unlisted]
  | cons c m ih =>
    obtain ⟨hc, hm, hw⟩ := (Memory.wf_cons c m).mp h
    rw [Memory.write]
    split
    · rename_i hlt
      split
      · rename_i hv
        rw [hv]
        refine Memory.read_of_lt _ _ fun d hd => ?_
        rcases List.mem_cons.mp hd with rfl | hd
        · exact hlt
        · exact lt_trans hlt (hm d hd)
      · simp [Memory.read]
    · split
      · rename_i heq
        split
        · rename_i hv
          rw [hv, heq]
          exact Memory.read_of_lt _ _ hm
        · simp [Memory.read]
      · rename_i hne
        rw [Memory.read, if_neg hne]
        exact ih hw

/-- A write leaves every other cell as it was (R44). -/
theorem Memory.read_write_other (m : Memory) (i j : Nat) (v : Elt) (h : j ≠ i) :
    (m.write i v).read j = m.read j := by
  induction m with
  | nil =>
    rw [Memory.write]
    split <;> simp [Memory.read, Memory.unlisted, h]
  | cons c m ih =>
    rw [Memory.write]
    split
    · split
      · rfl
      · simp [Memory.read, h]
    · split
      · rename_i heq
        split
        · simp [Memory.read, ← heq, h]
        · simp [Memory.read, ← heq, h]
      · simp only [Memory.read, ih]

/-- Zeroing the cells below `n`: each reads 0, the others as before (R184, R198). -/
theorem Memory.read_zeroBelow (m : Memory) (n i : Nat) :
    (m.zeroBelow n).read i = if i < n then 0 else m.read i := by
  induction m with
  | nil => simp [Memory.zeroBelow]
  | cons c m ih =>
    have e : Memory.zeroBelow n (c :: m) = if n ≤ c.1 then c :: Memory.zeroBelow n m else Memory.zeroBelow n m := by
      simp only [Memory.zeroBelow, List.filter_cons, decide_eq_true_eq]
    rw [e, Memory.read]
    split <;> rename_i hc
    · rw [Memory.read, ih]
      split <;> rename_i hi
      · rw [if_neg (by omega)]
      · rfl
    · rw [ih]
      split <;> rename_i hi
      · rfl
      · rw [if_neg (by omega)]

/-- Zeroing cells keeps the canonical form. -/
theorem Memory.wf_zeroBelow (m : Memory) (n : Nat) (h : m.wf = true) : (m.zeroBelow n).wf = true := by
  induction m with
  | nil => simpa [Memory.zeroBelow] using h
  | cons c m ih =>
    obtain ⟨hc, hm, hw⟩ := (Memory.wf_cons c m).mp h
    have e : Memory.zeroBelow n (c :: m) = if n ≤ c.1 then c :: Memory.zeroBelow n m else Memory.zeroBelow n m := by
      simp only [Memory.zeroBelow, List.filter_cons, decide_eq_true_eq]
    rw [e]
    split
    · exact (Memory.wf_cons _ _).mpr ⟨hc, fun d hd => hm d (List.mem_filter.mp hd).1, ih hw⟩
    · exact ih hw

/-- Where every listed cell is below `n`, zeroing the cells below `n` leaves nothing listed. -/
theorem Memory.zeroBelow_within (m : Memory) (n order : Nat) (h : m.within n order = true) : m.zeroBelow n = [] := by
  simp only [Memory.within, List.all_eq_true, decide_eq_true_eq] at h
  simp only [Memory.zeroBelow, List.filter_eq_nil_iff, decide_eq_true_eq, not_le]
  exact fun c hc => (h c hc).1

/-- A write of a canonical element to a cell that exists keeps the cells within bounds. -/
theorem Memory.within_write (m : Memory) (n order i : Nat) (v : Elt) (h : m.within n order = true) (hi : i < n)
    (hv : v < order) : (m.write i v).within n order = true := by
  simp only [Memory.within, List.all_eq_true, decide_eq_true_eq] at h ⊢
  intro d hd
  rcases Memory.mem_write m i v d hd with rfl | hd
  · exact ⟨hi, hv⟩
  · exact h d hd

/-- A cell of a memory within bounds reads as an element below the order. -/
theorem Memory.read_lt (m : Memory) (n order i : Nat) (h : m.within n order = true) (ho : 0 < order) :
    m.read i < order := by
  induction m with
  | nil => simpa using ho
  | cons c m ih =>
    simp only [Memory.within, List.all_cons, Bool.and_eq_true, decide_eq_true_eq] at h
    rw [Memory.read]
    split
    · exact h.1.2
    · exact ih h.2

/-- The contents after a reset are in canonical form, whatever they are (R242). -/
theorem Memory.wf_ofNoise (n order : Nat) (noise : List (Nat × Elt)) :
    (Memory.ofNoise n order noise).wf = true := by
  have key : ∀ (l : List (Nat × Elt)) (m : Memory), m.wf = true →
      Memory.wf (l.foldl (fun m c => if c.1 < n ∧ c.2 < order then Memory.write m c.1 c.2 else m) m) = true := by
    intro l
    induction l with
    | nil => exact fun m h => h
    | cons c l ih =>
      intro m h
      refine ih _ ?_
      simp only
      split
      · exact Memory.wf_write m _ _ h
      · exact h
  exact key noise [] rfl

/-- The contents after a reset are canonical elements in cells that exist (R242). -/
theorem Memory.within_ofNoise (n order : Nat) (noise : List (Nat × Elt)) :
    (Memory.ofNoise n order noise).within n order = true := by
  have key : ∀ (l : List (Nat × Elt)) (m : Memory), m.within n order = true →
      Memory.within n order
        (l.foldl (fun m c => if c.1 < n ∧ c.2 < order then Memory.write m c.1 c.2 else m) m) = true := by
    intro l
    induction l with
    | nil => exact fun m h => h
    | cons c l ih =>
      intro m h
      refine ih _ ?_
      simp only
      split
      · rename_i hc
        exact Memory.within_write m n order _ _ h hc.1 hc.2
      · exact h
  exact key noise [] rfl

/-- The memory of the reset state has the canonical form. -/
theorem State.reset_buf_wf : State.reset.buf.wf = true :=
  Memory.wf_ofNoise _ _ _

end Sys2Proof.Machine
end

