-- ==== Sys2Proof/Laws/PerInstr.lean ====
section
/-! SUPPORT. Statements made instruction by instruction: the encoding of a well-formed operation fits the port (R60). -/

namespace Sys2Proof.Laws.EncodeFits

/-- The transaction of a well-formed operation fits a port with a `dw`-bit data path, `dw` at least 32 (R60, D34). -/
def Statement (i : Instr) : Prop :=
  ∀ dw : Nat, 32 ≤ dw → i.wf dw = true → (encode i).data < 2 ^ dw

/-- A command word with its upper bits fits the data path. -/
theorem command_fits (dw hi op : Nat) (hd : 32 ≤ dw) (ho : op < 2 ^ 32) (h : hi < 2 ^ (dw - 32)) :
    hi * 2 ^ 32 + op < 2 ^ dw := by
  have e : 2 ^ dw = 2 ^ (dw - 32) * 2 ^ 32 := by rw [← pow_add]; congr 1; omega
  rw [e]
  calc hi * 2 ^ 32 + op < hi * 2 ^ 32 + 2 ^ 32 := by omega
    _ = (hi + 1) * 2 ^ 32 := by ring
    _ ≤ 2 ^ (dw - 32) * 2 ^ 32 := Nat.mul_le_mul_right _ h

theorem cmdNop (hi : Nat) : Statement (.cmdNop hi) := fun dw hd h =>
  command_fits dw hi _ hd (by norm_num) (of_decide_eq_true h)

theorem cmdStartEnc (hi : Nat) : Statement (.cmdStartEnc hi) := fun dw hd h =>
  command_fits dw hi _ hd (by norm_num) (of_decide_eq_true h)

theorem cmdStartDec (hi : Nat) : Statement (.cmdStartDec hi) := fun dw hd h =>
  command_fits dw hi _ hd (by norm_num) (of_decide_eq_true h)

theorem cmdClr (hi : Nat) : Statement (.cmdClr hi) := fun dw hd h =>
  command_fits dw hi _ hd (by norm_num) (of_decide_eq_true h)

theorem cmdReserved (data : Nat) : Statement (.cmdReserved data) := fun _ _ h =>
  of_decide_eq_true (Bool.and_eq_true_iff.mp h).1

theorem rdCmd : Statement .rdCmd := fun dw _ _ => Nat.two_pow_pos dw

theorem wrStatus (data : Nat) : Statement (.wrStatus data) := fun _ _ h => of_decide_eq_true h

theorem rdStatus : Statement .rdStatus := fun dw _ _ => Nat.two_pow_pos dw

theorem wrErr (data : Nat) : Statement (.wrErr data) := fun _ _ h => of_decide_eq_true h

theorem rdErr : Statement .rdErr := fun dw _ _ => Nat.two_pow_pos dw

theorem wrLen (data : Nat) : Statement (.wrLen data) := fun _ _ h => of_decide_eq_true h

theorem rdLen : Statement .rdLen := fun dw _ _ => Nat.two_pow_pos dw

theorem wrCnt (data : Nat) : Statement (.wrCnt data) := fun _ _ h => of_decide_eq_true h

theorem rdCnt : Statement .rdCnt := fun dw _ _ => Nat.two_pow_pos dw

theorem wrBlk (data : Nat) : Statement (.wrBlk data) := fun _ _ h => of_decide_eq_true h

theorem rdBlk : Statement .rdBlk := fun dw _ _ => Nat.two_pow_pos dw

theorem wrK0 (data : Nat) : Statement (.wrK0 data) := fun _ _ h => of_decide_eq_true h

theorem rdK0 : Statement .rdK0 := fun dw _ _ => Nat.two_pow_pos dw

theorem wrK1 (data : Nat) : Statement (.wrK1 data) := fun _ _ h => of_decide_eq_true h

theorem rdK1 : Statement .rdK1 := fun dw _ _ => Nat.two_pow_pos dw

theorem wrNonce (data : Nat) : Statement (.wrNonce data) := fun _ _ h => of_decide_eq_true h

theorem rdNonce : Statement .rdNonce := fun dw _ _ => Nat.two_pow_pos dw

theorem wrIv (data : Nat) : Statement (.wrIv data) := fun _ _ h => of_decide_eq_true h

theorem rdIv : Statement .rdIv := fun dw _ _ => Nat.two_pow_pos dw

theorem wrTagin (data : Nat) : Statement (.wrTagin data) := fun _ _ h => of_decide_eq_true h

theorem rdTagin : Statement .rdTagin := fun dw _ _ => Nat.two_pow_pos dw

theorem wrTagout (data : Nat) : Statement (.wrTagout data) := fun _ _ h => of_decide_eq_true h

theorem rdTagout : Statement .rdTagout := fun dw _ _ => Nat.two_pow_pos dw

theorem wrDin (data : Nat) : Statement (.wrDin data) := fun _ _ h => of_decide_eq_true h

theorem rdDin : Statement .rdDin := fun dw _ _ => Nat.two_pow_pos dw

theorem wrDout (data : Nat) : Statement (.wrDout data) := fun _ _ h => of_decide_eq_true h

theorem rdDout : Statement .rdDout := fun dw _ _ => Nat.two_pow_pos dw

theorem wrRcaddr (data : Nat) : Statement (.wrRcaddr data) := fun _ _ h => of_decide_eq_true h

theorem rdRcaddr : Statement .rdRcaddr := fun dw _ _ => Nat.two_pow_pos dw

theorem wrRcdata (data : Nat) : Statement (.wrRcdata data) := fun _ _ h => of_decide_eq_true h

theorem rdRcdata : Statement .rdRcdata := fun dw _ _ => Nat.two_pow_pos dw

theorem wrCfgField (data : Nat) : Statement (.wrCfgField data) := fun _ _ h => of_decide_eq_true h

theorem rdCfgField : Statement .rdCfgField := fun dw _ _ => Nat.two_pow_pos dw

theorem wrCfgW (data : Nat) : Statement (.wrCfgW data) := fun _ _ h => of_decide_eq_true h

theorem rdCfgW : Statement .rdCfgW := fun dw _ _ => Nat.two_pow_pos dw

theorem wrCfgRbig (data : Nat) : Statement (.wrCfgRbig data) := fun _ _ h => of_decide_eq_true h

theorem rdCfgRbig : Statement .rdCfgRbig := fun dw _ _ => Nat.two_pow_pos dw

theorem wrCfgRsmall (data : Nat) : Statement (.wrCfgRsmall data) := fun _ _ h => of_decide_eq_true h

theorem rdCfgRsmall : Statement .rdCfgRsmall := fun dw _ _ => Nat.two_pow_pos dw

theorem wrCfgRcoff (data : Nat) : Statement (.wrCfgRcoff data) := fun _ _ h => of_decide_eq_true h

theorem rdCfgRcoff : Statement .rdCfgRcoff := fun dw _ _ => Nat.two_pow_pos dw

theorem wrCfgRcdepth (data : Nat) : Statement (.wrCfgRcdepth data) := fun _ _ h => of_decide_eq_true h

theorem rdCfgRcdepth : Statement .rdCfgRcdepth := fun dw _ _ => Nat.two_pow_pos dw

theorem wrCfgMaxblk (data : Nat) : Statement (.wrCfgMaxblk data) := fun _ _ h => of_decide_eq_true h

theorem rdCfgMaxblk : Statement .rdCfgMaxblk := fun dw _ _ => Nat.two_pow_pos dw

theorem wrCfgSlot (data : Nat) : Statement (.wrCfgSlot data) := fun _ _ h => of_decide_eq_true h

theorem rdCfgSlot : Statement .rdCfgSlot := fun dw _ _ => Nat.two_pow_pos dw

theorem wrCfgMod (data : Nat) : Statement (.wrCfgMod data) := fun _ _ h => of_decide_eq_true h

theorem rdCfgMod : Statement .rdCfgMod := fun dw _ _ => Nat.two_pow_pos dw

theorem wrCfgRefillv (data : Nat) : Statement (.wrCfgRefillv data) := fun _ _ h => of_decide_eq_true h

theorem rdCfgRefillv : Statement .rdCfgRefillv := fun dw _ _ => Nat.two_pow_pos dw

theorem wrUndefined (addr : Addr) (data : Nat) : Statement (.wrUndefined addr data) := fun _ _ h =>
  of_decide_eq_true (Bool.and_eq_true_iff.mp h).1

theorem rdUndefined (addr : Addr) : Statement (.rdUndefined addr) := fun dw _ _ => Nat.two_pow_pos dw

end Sys2Proof.Laws.EncodeFits
end

