-- ==== Sys2Proof/Laws/Run.lean ====
section
/-! SUPPORT. Runs of many steps: how they compose, and what the next action of the queue makes of a step. -/

namespace Sys2Proof.Machine

/-- A run of `m + n` steps is a run of `m` steps and then one of `n`. -/
theorem stepN_add (m n : Nat) (s t : State) (h : stepN m s = .next t) : stepN (m + n) s = stepN n t := by
  induction m generalizing s with
  | zero => cases h; simp only [Nat.zero_add]
  | succ m ih =>
    rw [Nat.succ_add]
    simp only [stepN] at h ⊢
    split at h
    · exact ih _ h
    · cases h
    · cases h

/-- `m + n` turns of the sequencer are `m` turns and then `n`. -/
theorem microSteps_add (m n : Nat) (s t : State) (h : microSteps m s = .next t) :
    microSteps (m + n) s = microSteps n t := by
  induction m generalizing s with
  | zero => cases h; simp only [Nat.zero_add]
  | succ m ih =>
    rw [Nat.succ_add]
    simp only [microSteps] at h ⊢
    split at h
    · exact ih _ h
    · cases h
    · cases h

/-- A step with a host transaction of the port as the next action. -/
theorem step_of_host (s : State) (tr : Transaction) (rest : List Event) (i : Instr)
    (hd : decode s.cfg.dw tr = .ok i) :
    step { s with inputs := .host tr :: rest } = exec i { s with inputs := rest } := by
  simp only [step, fetch, hd]

/-- A step with a turn of the sequencer as the next action. -/
theorem step_of_engine (s : State) (rest : List Event) :
    step { s with inputs := .engine :: rest } = microStep { s with inputs := rest } := rfl

/-- One step and then the rest of a run. -/
theorem stepN_of_step (n : Nat) (s t : State) (h : step s = .next t) : stepN (n + 1) s = stepN n t := by
  simp only [stepN, h]

end Sys2Proof.Machine
end

