-- ==== Sys2Proof/Tests/Slice0.lean ====
section
/-! SUPPORT. Tests: ill-formed terms that `wf` refuses, a word written out from R60 to R64 for every constructor, the
vectors of 95_test_vectors.md (cited by number), and witnesses that meet the hypotheses of the statements. -/

open Sys2Proof Sys2Proof.Machine Sys2Proof.Claims

namespace Sys2Proof.Tests

/-! ## Helpers -/

/-- What `f` sees in the state an operation answers. -/
def seen {α : Type} (f : State → α) (r : Result) : Option α :=
  match r with
  | .next t => some (f t)
  | .fault _ => none
  | .refused _ => none

/-- T101 after reset. -/
def idle : State := State.resetOf Config.t101 []

/-- T101 with the operands of P1 and P2 and three elements loaded. -/
def loaded : State :=
  { idle with
    k0 := 3, k0v := true, k1 := 5, k1v := true, nonce := 7, nv := true, tagin := 79, tv := true, len := 3, cnt := 3,
    buf := [(0, 10), (1, 20), (2, 30)] }

/-- T101 at the start of the key schedule (P1 step 0). -/
def inKs : State := loaded.beginSession .encrypt

/-- T101 at the end of the key schedule (P1 step 8). -/
def atExit : State := { inKs with duplex := ⟨26, 92, 47⟩, rnd := 8 }

/-- T101 rolling block 0 (P1 step 9). -/
def inRoll : State := { inKs with phase := .roll, duplex := ⟨26, 92, 47⟩ }

/-- T101 at the commit of block 0 (P1 step 12). -/
def atCommit : State := { inRoll with duplex := ⟨55, 87, 29⟩, rnd := 3 }

/-- T101 at the last commit of a session (P1 step 24), in either mode. -/
def atEnd (m : Mode) (tagin : Elt) : State :=
  { inKs with
    phase := .fin, mode := m, tagin := tagin, blk := 3, rnd := 3, duplex := ⟨79, 50, 29⟩,
    buf := [(0, 65), (1, 67), (2, 21)] }

/-- T101 after an encrypt session (P1 line 11). -/
def done : State :=
  { (atEnd .encrypt 79).scrub with phase := .done, tagout := 79, tagv := true }

/-- T101 after a failed decrypt session (P2 line 28). -/
def failed : State :=
  { (atEnd .decrypt 80).scrub with phase := .fail, err := 0x002, buf := [] }

/-- The misconfigured build of P5. -/
def broken : Config := { Config.t101 with rcOffset := 6 }

/-- P5 after reset. -/
def fatal : State := State.resetOf broken []

/-- A build whose data path is 64 bits wide. -/
def wide : Config := { Config.t101 with field := .binary 64 (2 ^ 64 + 27) }

/-! ## Well-formedness: one ill-formed term for each check -/

theorem test_wf_refuses_wide_data : Instr.wf 32 (.wrK0 (2 ^ 32)) = false := by decide

theorem test_wf_refuses_wide_command : Instr.wf 32 (.cmdNop 1) = false := by decide

theorem test_wf_refuses_defined_command_as_reserved : Instr.wf 32 (.cmdReserved 3) = false := by decide

theorem test_wf_refuses_wide_reserved_command : Instr.wf 32 (.cmdReserved (2 ^ 32 + 4)) = false := by decide

theorem test_wf_refuses_defined_write_address : Instr.wf 32 (.wrUndefined 0x2B 0) = false := by decide

theorem test_wf_refuses_defined_read_address : Instr.wf 32 (.rdUndefined 0x00) = false := by decide

theorem test_wf_accepts_boundaries :
    Instr.wf 32 (.wrK0 (2 ^ 32 - 1)) = true ∧ Instr.wf 33 (.cmdNop 1) = true ∧ Instr.wf 32 (.cmdReserved 4) = true ∧
    Instr.wf 32 (.wrUndefined 0x2C 0) = true ∧ Instr.wf 32 (.rdUndefined 0x07) = true := by decide

/-! ## Decoding: `we ‖ addr ‖ data[31:0]` written out from R61 to R64 -/

theorem test_decode_commands :
    decodeTableWord 48 0x10000000000 = some (.cmdNop 0) ∧ decodeTableWord 48 0x10000000001 = some (.cmdStartEnc 0) ∧
    decodeTableWord 48 0x10000000002 = some (.cmdStartDec 0) ∧ decodeTableWord 48 0x10000000003 = some (.cmdClr 0) ∧
    decodeTableWord 48 0x10000000004 = some (.cmdReserved 4) ∧
    decodeTableWord 48 0x10000000101 = some (.cmdReserved 0x101) := by decide

theorem test_decode_writes_control :
    decodeTableWord 48 0x10100000000 = some (.wrStatus 0) ∧ decodeTableWord 48 0x10200000001 = some (.wrErr 1) ∧
    decodeTableWord 48 0x10300000003 = some (.wrLen 3) ∧ decodeTableWord 48 0x10400000002 = some (.wrCnt 2) ∧
    decodeTableWord 48 0x10500000004 = some (.wrBlk 4) ∧ decodeTableWord 48 0x11000000005 = some (.wrRcaddr 5) ∧
    decodeTableWord 48 0x11100000006 = some (.wrRcdata 6) := by decide

theorem test_decode_writes_elements :
    decodeTableWord 48 0x10800000003 = some (.wrK0 3) ∧ decodeTableWord 48 0x10900000005 = some (.wrK1 5) ∧
    decodeTableWord 48 0x10A00000007 = some (.wrNonce 7) ∧ decodeTableWord 48 0x10B00000001 = some (.wrIv 1) ∧
    decodeTableWord 48 0x10C0000004F = some (.wrTagin 79) ∧ decodeTableWord 48 0x10D00000000 = some (.wrTagout 0) ∧
    decodeTableWord 48 0x10E0000000A = some (.wrDin 10) ∧
    decodeTableWord 48 0x10FFFFFFFFF = some (.wrDout 0xFFFFFFFF) := by decide

theorem test_decode_writes_config :
    decodeTableWord 48 0x12000000001 = some (.wrCfgField 1) ∧ decodeTableWord 48 0x12100000002 = some (.wrCfgW 2) ∧
    decodeTableWord 48 0x12200000003 = some (.wrCfgRbig 3) ∧ decodeTableWord 48 0x12300000004 = some (.wrCfgRsmall 4) ∧
    decodeTableWord 48 0x12400000005 = some (.wrCfgRcoff 5) ∧
    decodeTableWord 48 0x12500000006 = some (.wrCfgRcdepth 6) ∧
    decodeTableWord 48 0x12600000007 = some (.wrCfgMaxblk 7) ∧ decodeTableWord 48 0x12700000008 = some (.wrCfgSlot 8) ∧
    decodeTableWord 48 0x12A00000009 = some (.wrCfgMod 9) ∧
    decodeTableWord 48 0x12B0000000A = some (.wrCfgRefillv 10) := by decide

theorem test_decode_reads_control :
    decodeTableWord 48 0x00000000000 = some .rdCmd ∧ decodeTableWord 48 0x00100000000 = some .rdStatus ∧
    decodeTableWord 48 0x00200000000 = some .rdErr ∧ decodeTableWord 48 0x00300000000 = some .rdLen ∧
    decodeTableWord 48 0x00400000000 = some .rdCnt ∧ decodeTableWord 48 0x00500000000 = some .rdBlk ∧
    decodeTableWord 48 0x01000000000 = some .rdRcaddr ∧ decodeTableWord 48 0x01100000000 = some .rdRcdata := by decide

theorem test_decode_reads_elements :
    decodeTableWord 48 0x00800000000 = some .rdK0 ∧ decodeTableWord 48 0x00900000000 = some .rdK1 ∧
    decodeTableWord 48 0x00A00000000 = some .rdNonce ∧ decodeTableWord 48 0x00B00000000 = some .rdIv ∧
    decodeTableWord 48 0x00C00000000 = some .rdTagin ∧ decodeTableWord 48 0x00D00000000 = some .rdTagout ∧
    decodeTableWord 48 0x00E00000000 = some .rdDin ∧ decodeTableWord 48 0x00F00000000 = some .rdDout := by decide

theorem test_decode_reads_config :
    decodeTableWord 48 0x02000000000 = some .rdCfgField ∧ decodeTableWord 48 0x02100000000 = some .rdCfgW ∧
    decodeTableWord 48 0x02200000000 = some .rdCfgRbig ∧ decodeTableWord 48 0x02300000000 = some .rdCfgRsmall ∧
    decodeTableWord 48 0x02400000000 = some .rdCfgRcoff ∧ decodeTableWord 48 0x02500000000 = some .rdCfgRcdepth ∧
    decodeTableWord 48 0x02600000000 = some .rdCfgMaxblk ∧ decodeTableWord 48 0x02700000000 = some .rdCfgSlot ∧
    decodeTableWord 48 0x02A00000000 = some .rdCfgMod ∧ decodeTableWord 48 0x02B00000000 = some .rdCfgRefillv := by decide

theorem test_decode_undefined :
    decodeTableWord 48 0x10600000000 = some (.wrUndefined 0x06 0) ∧
    decodeTableWord 48 0x12C00000001 = some (.wrUndefined 0x2C 1) ∧
    decodeTableWord 48 0x0FF00000000 = some (.rdUndefined 0xFF) ∧
    decodeTableWord 48 0x01200000000 = some (.rdUndefined 0x12) := by decide

/-- On a 64-bit data path the opcode is in the low 32 bits, and the bits above come along (R61). -/
theorem test_decode_wide_command :
    decodeBits 64 0x1000000000500000001 = .ok (.cmdStartEnc 5) := by decide

theorem test_decode_rejects :
    decode 32 ⟨true, 0x08, 2 ^ 32⟩ = .error .dataTooWide ∧ decodeBits 32 (2 ^ 41) = .error .wordTooLong := by decide

/-- R68: the listing of `WR K0, 3`. -/
theorem test_listing : listing 32 (.wr 0x08 3) = ['1', ' ', '0', '8', ' ', '0', '0', '0', '0', '0', '0', '0', '3'] := by
  decide

/-- The opcode table's word of `WR K0, 3` runs as the first step after reset. -/
theorem test_step_of_fetch_word :
    seen (fun t => (t.k0, t.k0v, t.inputs)) (step (State.reset.withFetchWord 48 0x10800000003)) = some (3, true, []) := by
  decide

/-! ## The functions: 95_test_vectors.md sections 2.1 to 2.7, 2.14 -/

/-- V4, V5, V3. -/
theorem test_prime_field :
    (FieldSpec.prime 101).mul 50 51 = 25 ∧ (FieldSpec.prime 101).sub 37 64 = 74 ∧ (FieldSpec.prime 101).sub 0 1 = 100 ∧
    (FieldSpec.prime 101).add 100 1 = 0 := by decide

/-- V6, V7, V8. -/
theorem test_binary_field :
    (FieldSpec.binary 8 0x11B).mul 0x57 0x83 = 0xC1 ∧ (FieldSpec.binary 8 0x11B).mul 0x02 0x80 = 0x1B ∧
    (FieldSpec.binary 8 0x11B).mul 0xFF 0xFF = 0x13 ∧ (FieldSpec.binary 8 0x11B).sub 0x57 0x83 = 0xD4 := by decide

/-- V11. -/
theorem test_ref3_prime :
    ref3 (.prime 101) ⟨8, 3, 5⟩ 2 = ⟨31, 74, 34⟩ ∧ ref3 (.prime 101) ⟨100, 0, 0⟩ 100 = ⟨100, 99, 100⟩ := by decide

/-- V12. -/
theorem test_ref3_binary :
    ref3 (.binary 8 0x11B) ⟨0x57, 0x83, 0x01⟩ 0x03 = ⟨0xC3, 0x91, 0x40⟩ := by decide

/-- V13. -/
theorem test_ref3inv :
    ref3inv (.prime 101) ⟨0, 0, 0⟩ 2 = ⟨2, 0, 99⟩ ∧
    ref3inv (.binary 8 0x11B) ⟨0xBE, 0x67, 0x94⟩ 0xCA = ⟨0x69, 0x2A, 0x4C⟩ := by decide

/-- V18. -/
theorem test_cfgOk :
    Config.t101.cfgOk = true ∧ { Config.t101 with rcOffset := 6 }.cfgOk = false ∧
    { Config.t101 with rSmall := 8, rcOffset := 0 }.cfgOk = true ∧ { Config.t101 with rBig := 9 }.cfgOk = false ∧
    { Config.t101 with rBig := 7, rcOffset := 4 }.cfgOk = true ∧ { Config.t101 with wSmall := 4 }.cfgOk = false ∧
    { Config.t101 with w := 4, wBig := 4, wSmall := 4 }.cfgOk = false ∧ { Config.t101 with maskSlot := 3 }.cfgOk = false ∧
    { Config.t101 with rSmall := 0 }.cfgOk = false ∧ { Config.t101 with rBig := 0 }.cfgOk = false := by decide

/-- V19, V20, V22. -/
theorem test_permutations :
    perm Config.t101 2 2 ⟨8, 3, 5⟩ = ⟨68, 63, 39⟩ ∧ big Config.t101 ⟨8, 3, 5⟩ = ⟨26, 92, 47⟩ ∧
    small Config.t101 ⟨26, 92, 47⟩ = ⟨55, 87, 29⟩ := by decide

/-- V24, V35, V38. -/
theorem test_encrypt_decrypt :
    encrypt Config.t101 3 5 7 1 [10, 20, 30] = ([65, 67, 21], 79) ∧
    decrypt Config.t101 3 5 7 1 [65, 67, 21] 79 = .ok [10, 20, 30] ∧
    decrypt Config.t101 3 5 7 1 [65, 67, 21] 80 = .error .authenticationError := by decide

/-- V33. -/
theorem test_encrypt_binary :
    encrypt Config.t256 0x2B 0x7E 0x15 0x01 [0x00, 0xFF, 0x80] = ([0xE6, 0x52, 0xE0], 0x56) := by decide

/-- V40, V41. -/
theorem test_refill_and_slot :
    encrypt { Config.t101 with maskSlot := 2, refill := .const 0 } 3 5 7 1 [10, 20, 30] = ([39, 76, 65], 81) ∧
    encrypt { Config.t101 with refill := .const 1 } 3 5 7 1 [10, 20, 30] = ([65, 98, 7], 90) := by decide

/-- V61. -/
theorem test_nSteps : nSteps Config.t101 3 = 25 ∧ nSteps Config.t101 0 = 13 ∧ nSteps Config.t256 4 = 20 := by decide

/-- V70. -/
theorem test_bytes :
    { Config.t101 with field := .prime 65537 }.elementBytes 65536 = [1, 0, 0] ∧
    { Config.t101 with field := .prime 65537 }.elementOfBytes [1, 0, 1] = none ∧
    Config.t101.elementOfBytes [0x65] = none := by decide

/-! ## Commands: V52 to V57 -/

theorem test_cmdNop : seen id (exec (.cmdNop 0) inRoll) = some inRoll := by decide

theorem test_cmdNop_wide : seen State.errWord (exec (.cmdNop 1) (State.resetOf wide [])) = some 0x040 := by decide

/-- V53 (a). -/
theorem test_cmdStartEnc :
    seen (fun t => (t.duplex, t.statusWord)) (exec (.cmdStartEnc 0) { loaded with tv := false }) =
      some (⟨8, 3, 5⟩, 0x1C9) := by decide

/-- V53 (c). -/
theorem test_cmdStartEnc_length :
    seen (fun t => (t.errWord, t.phase)) (exec (.cmdStartEnc 0) { loaded with len := 1, cnt := 0 }) =
      some (0x004, .idle) := by decide

/-- V54 (a). -/
theorem test_cmdStartDec :
    seen (fun t => (t.duplex, t.statusWord)) (exec (.cmdStartDec 0) loaded) = some (⟨8, 3, 5⟩, 0x3D9) := by decide

/-- V54 (c). -/
theorem test_cmdStartDec_operands : seen State.errWord (exec (.cmdStartDec 0) { idle with len := 2 }) = some 0x020 := by
  decide

/-- V55: in `DONE`, with `IV` and `RCADDR` kept. -/
theorem test_cmdClr :
    seen id (exec (.cmdClr 0) { done with iv := 100, rcaddr := 3, err := 0x080 }) =
      some { idle with iv := 100, rcaddr := 3 } := by decide

theorem test_cmdClr_busy : seen id (exec (.cmdClr 0) inKs) = some { inKs with err := 0x010 } := by decide

/-- V56, V57. -/
theorem test_cmdReserved :
    seen State.errWord (exec (.cmdReserved 0x101) idle) = some 0x008 ∧
    seen State.errWord (exec (.cmdReserved 4) inKs) = some 0x008 := by decide

/-! ## Writes: V43 to V48, V57 -/

theorem test_wrK0 : seen (fun t => (t.k0, t.statusWord)) (exec (.wrK0 0) idle) = some (0, 0x040) := by decide

theorem test_wrK0_range : seen id (exec (.wrK0 101) idle) = some { idle with err := 0x040 } := by decide

theorem test_wrK1 : seen (fun t => (t.k1, t.statusWord)) (exec (.wrK1 100) idle) = some (100, 0x080) := by decide

theorem test_wrNonce : seen (fun t => (t.nonce, t.statusWord)) (exec (.wrNonce 7) idle) = some (7, 0x100) := by decide

theorem test_wrIv : seen (fun t => (t.iv, t.statusWord)) (exec (.wrIv 0) idle) = some (0, 0) := by decide

theorem test_wrTagin : seen (fun t => (t.tagin, t.statusWord)) (exec (.wrTagin 79) idle) = some (79, 0x200) := by decide

theorem test_wrLen : seen (fun t => t.len) (exec (.wrLen 0xFFFFFFFF) idle) = some 0xFFFFFFFF := by decide

theorem test_wrLen_wide : seen State.errWord (exec (.wrLen (2 ^ 32)) (State.resetOf wide [])) = some 0x040 := by decide

/-- V46. -/
theorem test_wrDin :
    seen (fun t => (t.cnt, t.buf)) (exec (.wrDin 40) loaded) = some (4, [(0, 10), (1, 20), (2, 30), (3, 40)]) := by decide

/-- V46: the range is tested before the room. -/
theorem test_wrDin_full :
    seen State.errWord (exec (.wrDin 101) { idle with cnt := 8 }) = some 0x040 ∧
    seen State.errWord (exec (.wrDin 5) { idle with cnt := 8 }) = some 0x080 := by decide

theorem test_wrRcaddr : seen (fun t => t.rcaddr) (exec (.wrRcaddr 5) done) = some 5 := by decide

/-- V57: phase before range, address before phase. -/
theorem test_write_priority :
    seen State.errWord (exec (.wrK0 101) inKs) = some 0x010 ∧ seen State.errWord (exec (.wrStatus 0) inKs) = some 0x100 := by
  decide

/-- V48. -/
theorem test_wrUndefined : seen id (exec (.wrUndefined 0x06 0) idle) = some { idle with err := 0x100 } := by decide

/-! ## Reads: V47 to V51, V68 -/

theorem test_rdStatus : seen (fun t => t.rdata) (exec .rdStatus done) = some 0x704 := by decide

theorem test_rdErr : seen (fun t => (t.rdata, t.err)) (exec .rdErr { failed with err := 0x012 }) = some (0x012, 0x012) := by
  decide

theorem test_rdIv : seen (fun t => t.rdata) (exec .rdIv idle) = some 1 := by decide

theorem test_rdTagout : seen (fun t => t.rdata) (exec .rdTagout done) = some 79 := by decide

/-- V51. -/
theorem test_rdDout : seen (fun t => (t.rdata, t.rdp)) (exec .rdDout { done with rdp := 2 }) = some (21, 3) := by decide

theorem test_rdDout_empty :
    seen (fun t => (t.rdata, t.rdp, t.errWord)) (exec .rdDout { done with rdp := 3, rdata := 21 }) =
      some (0, 3, 0x080) := by decide

/-- V47. -/
theorem test_rdRcdata :
    seen (fun t => (t.rdata, t.errWord)) (exec .rdRcdata { idle with rcaddr := 7 }) = some (19, 0) ∧
    seen (fun t => (t.rdata, t.errWord)) (exec .rdRcdata { idle with rcaddr := 8 }) = some (0, 0x100) := by decide

/-- V48. -/
theorem test_rdK0 : seen (fun t => (t.rdata, t.errWord)) (exec .rdK0 loaded) = some (0, 0x100) := by decide

/-- V49. -/
theorem test_rdConfig :
    seen (fun t => t.rdata) (exec .rdCfgField { idle with cfg := Config.t256 }) = some 0x00080001 ∧
    seen (fun t => t.rdata) (exec .rdCfgW idle) = some 0x00030303 ∧
    seen (fun t => t.rdata) (exec .rdCfgMod { idle with cfg := Config.t256 }) = some 0x1B := by decide

/-- P5. -/
theorem test_fatal :
    seen (fun t => t.rdata) (exec .rdStatus fatal) = some 0x007 ∧ seen (fun t => t.rdata) (exec .rdIv fatal) = some 0 ∧
    seen (fun t => t.rdata) (exec .rdCfgRcoff fatal) = some 6 ∧ seen id (exec (.wrK0 3) fatal) = some fatal := by decide

/-! ## Micro-steps: V58 to V60; reset: V68 -/

theorem test_ksRound : seen (fun t => (t.duplex, t.rnd)) (microStep inKs) = some (⟨31, 74, 34⟩, 1) := by decide

theorem test_ksExit : seen id (microStep atExit) = some inRoll := by decide

theorem test_ksExit_empty : seen (fun t => t.phase) (microStep { atExit with len := 0, cnt := 0 }) = some .fin := by decide

theorem test_rollRound : seen (fun t => (t.duplex, t.rnd)) (microStep inRoll) = some (⟨28, 16, 19⟩, 1) := by decide

theorem test_rollCommit :
    seen (fun t => (t.buf, t.blk, t.rnd, t.phase)) (microStep atCommit) =
      some ([(0, 65), (1, 20), (2, 30)], 1, 0, .roll) := by decide

theorem test_rollCommit_decrypt_last :
    seen (fun t => (t.buf, t.blk, t.phase))
      (microStep { atCommit with mode := .decrypt, blk := 2, duplex := ⟨92, 2, 27⟩, buf := [(0, 10), (1, 20), (2, 21)] }) =
      some ([(0, 10), (1, 20), (2, 30)], 3, .fin) := by decide

theorem test_finCommitEnc : seen id (microStep (atEnd .encrypt 79)) = some done := by decide

theorem test_finCommitDecOk :
    seen (fun t => (t.statusWord, t.tagout, t.duplex, t.k0)) (microStep (atEnd .decrypt 79)) =
      some (0x334, 0, ⟨0, 0, 0⟩, 0) := by decide

theorem test_finCommitDecFail : seen id (microStep (atEnd .decrypt 80)) = some failed := by decide

theorem test_reset_event :
    seen id (step { inKs with iv := 2, rcaddr := 3, inputs := [.reset [(5, 100), (5, 101), (8, 1)]] }) =
      some { idle with buf := [(5, 100)] } := by decide

/-! ## States that have the invariant -/

theorem witness_inv_idle : idle.Inv :=
  ⟨by decide,
    ⟨by decide, by decide, by decide, by decide, by decide, by decide, by decide, by decide, by decide⟩,
    ⟨by decide, by decide, by decide, by decide, by decide, by decide, by decide, by decide, by decide⟩,
    fun _ => ⟨by decide, by decide, by decide, by decide, by decide, by decide, nofun, by decide, by decide, by decide,
      by decide, by decide, by decide, by decide⟩,
    fun h => absurd h (by decide)⟩

theorem witness_inv_loaded : loaded.Inv :=
  ⟨by decide,
    ⟨by decide, by decide, by decide, by decide, by decide, by decide, by decide, by decide, by decide⟩,
    ⟨by decide, by decide, by decide, by decide, by decide, by decide, by decide, by decide, by decide⟩,
    fun _ => ⟨by decide, by decide, by decide, by decide, by decide, by decide, nofun, by decide, by decide, by decide,
      by decide, by decide, by decide, by decide⟩,
    fun h => absurd h (by decide)⟩

theorem witness_inv_inKs : inKs.Inv :=
  ⟨by decide,
    ⟨by decide, by decide, by decide, by decide, by decide, by decide, by decide, by decide, by decide⟩,
    ⟨by decide, by decide, by decide, by decide, by decide, by decide, by decide, by decide, by decide⟩,
    fun _ => ⟨by decide, by decide, by decide, by decide, by decide, by decide, nofun, by decide, by decide, by decide,
      by decide, by decide, by decide, by decide⟩,
    fun h => absurd h (by decide)⟩

theorem witness_inv_atEnd : (atEnd .decrypt 80).Inv :=
  ⟨by decide,
    ⟨by decide, by decide, by decide, by decide, by decide, by decide, by decide, by decide, by decide⟩,
    ⟨by decide, by decide, by decide, by decide, by decide, by decide, by decide, by decide, by decide⟩,
    fun _ => ⟨by decide, by decide, by decide, by decide, by decide, by decide, nofun, by decide, by decide, by decide,
      by decide, by decide, by decide, by decide⟩,
    fun h => absurd h (by decide)⟩

theorem witness_inv_done : done.Inv :=
  ⟨by decide,
    ⟨by decide, by decide, by decide, by decide, by decide, by decide, by decide, by decide, by decide⟩,
    ⟨by decide, by decide, by decide, by decide, by decide, by decide, by decide, by decide, by decide⟩,
    fun _ => ⟨by decide, by decide, by decide, by decide, by decide, by decide, nofun, by decide, by decide, by decide,
      by decide, by decide, by decide, by decide⟩,
    fun h => absurd h (by decide)⟩

theorem witness_inv_failed : failed.Inv :=
  ⟨by decide,
    ⟨by decide, by decide, by decide, by decide, by decide, by decide, by decide, by decide, by decide⟩,
    ⟨by decide, by decide, by decide, by decide, by decide, by decide, by decide, by decide, by decide⟩,
    fun _ => ⟨by decide, by decide, by decide, by decide, by decide, by decide,
      fun _ => ⟨by decide, by decide, by decide, fun _ => rfl⟩, by decide, by decide, by decide, by decide, by decide,
      by decide, by decide⟩,
    fun h => absurd h (by decide)⟩

theorem witness_inv_fatal : fatal.Inv :=
  ⟨by decide,
    ⟨by decide, by decide, by decide, by decide, by decide, by decide, by decide, by decide, by decide⟩,
    ⟨by decide, by decide, by decide, by decide, by decide, by decide, by decide, by decide, by decide⟩,
    fun h => absurd h (by decide), fun _ => rfl⟩

/-! ## Witnesses: concrete values that meet the hypotheses of the statements, each clause at a boundary -/

theorem witness_DecodeInvertsEncode :
    32 ≤ 32 ∧ Instr.wf 32 (.wrK0 (2 ^ 32 - 1)) = true ∧ Instr.wf 64 (.cmdClr (2 ^ 32 - 1)) = true := by decide

theorem witness_EveryTransactionDecodes :
    32 ≤ 32 ∧ (Transaction.wr 0x0E (2 ^ 32 - 1)).data < 2 ^ 32 ∧ 2 ^ 32 ≤ (Transaction.wr 0x0E (2 ^ 32)).data := by decide

theorem witness_DecoderFollowsOpcodeTable :
    32 ≤ 32 ∧ decode 32 (.wr 0x00 0xFFFFFFFF) = .ok (.cmdReserved 0xFFFFFFFF) := by decide

theorem witness_StepRunsDecodedTransaction :
    (idle.issue (.wr 0x08 3)).inputs = .host (.wr 0x08 3) :: [] ∧
    decode (idle.issue (.wr 0x08 3)).cfg.dw (.wr 0x08 3) = .ok (.wrK0 3) := by decide

theorem witness_StepGivesSequencerItsTurn :
    ({ inKs with inputs := [.engine] } : State).inputs = .engine :: [] ∧ inKs.inputs = [] := by decide

theorem witness_ResetEventSetsEveryRegister :
    ({ done with inputs := [.reset []] } : State).inputs = .reset [] :: [] ∧ 0 < done.cfg.field.order ∧
    done.cfg.cfgOk = true ∧ done.cfg.rc[0]? = some 2 ∧ done.phase.busy = false ∧
    exec (.cmdClr 0) done = .next done.clear ∧ fatal.cfg.cfgOk = false :=
  ⟨rfl, by decide, by decide, by decide, by decide, rfl, by decide⟩

theorem witness_ResetLeavesAnyBufferContents :
    Memory.wf [(0, 1), (7, 100)] = true ∧
    Memory.within idle.cfg.maxBlocks idle.cfg.field.order [(0, 1), (7, 100)] = true := by decide

/-- The clauses of the writes of element registers: the largest element, the least number that is none, a busy phase, and
`FATAL`. -/
theorem witness_element_writes :
    idle.phase = .idle ∧ 100 < idle.cfg.field.order ∧ idle.cfg.field.order ≤ 101 ∧
    inKs.phase ≠ .idle ∧ inKs.phase ≠ .fatal ∧ done.phase ≠ .idle ∧ done.phase ≠ .fatal ∧ fatal.phase = .fatal := by decide

theorem witness_IvChangesOnlyByWriteOrReset :
    seen (fun t => t.iv) (step (idle.issue (.wr 0x0B 100))) = some 100 ∧
    seen (fun t => t.iv) (step { done with iv := 5, inputs := [.reset []] }) = some 1 ∧
    seen (fun t => t.iv) (step { idle with iv := 5, inputs := [.engine] }) = some 5 := by decide

theorem witness_ControlRegisterWrites :
    loaded.phase = .idle ∧ 2 ^ 32 - 1 < 2 ^ 32 ∧ 2 ^ 32 ≤ 2 ^ 32 ∧ inKs.phase = .ks ∧ fatal.phase = .fatal ∧
    done.phase = .done ∧ loaded.cnt ≤ loaded.cfg.maxBlocks ∧ loaded.cfg.maxBlocks < 9 ∧
    loaded.operandsValid .decrypt = true ∧ exec (.wrLen 9) loaded = .next { loaded with len := 9 } :=
  ⟨by decide, by decide, by decide, by decide, by decide, by decide, by decide, by decide, by decide, rfl⟩

theorem witness_PushAppendsElement :
    ({ loaded with cnt := 7 } : State).buf.wf = true ∧ loaded.phase = .idle ∧ 100 < loaded.cfg.field.order ∧
    7 < loaded.cfg.maxBlocks ∧ ({ loaded with cnt := 8 } : State).cnt = loaded.cfg.maxBlocks ∧
    loaded.cfg.field.order ≤ 101 ∧ inKs.phase ≠ .idle ∧ inKs.phase ≠ .fatal ∧ fatal.phase = .fatal ∧
    fatal.buf.wf = true := by decide

/-- Steps that change `CNT`: a push, `CLR`, reset; and a commit, which does not. -/
theorem witness_push_count :
    seen (fun t => t.cnt) (step (loaded.issue (.wr 0x0E 100))) = some 4 ∧
    seen (fun t => t.cnt) (step (loaded.issue (.wr 0x00 3))) = some 0 ∧
    seen (fun t => t.cnt) (step { loaded with inputs := [.reset []] }) = some 0 ∧
    seen (fun t => t.cnt) (step atCommit) = some 3 := by decide

theorem witness_ReadOnlyWritesAreRefused :
    .wrStatus 7 ∈ readOnlyWrites 0x06 7 ∧ .wrUndefined 0x06 7 ∈ readOnlyWrites 0x06 7 ∧ inKs.phase ≠ .fatal ∧
    fatal.phase = .fatal := by decide

theorem witness_PublicRegisterReads :
    done.phase ≠ .fatal ∧ fatal.phase = .fatal ∧ idle.nv = false ∧ idle.tagv = false ∧
    seen (fun t => t.blk) (microStep atCommit) = some 1 := by decide

theorem witness_ConfigurationReads :
    idle.cfg.admissible = true ∧ idle.cfg.field = .prime 101 ∧ Config.t256.admissible = true ∧
    Config.t256.field = .binary 8 0x11B := by decide

theorem witness_WriteOnlyReadsAreRefused :
    .rdK0 ∈ writeOnlyReads 0xFF ∧ .rdUndefined 0xFF ∈ writeOnlyReads 0xFF ∧ loaded.phase ≠ .fatal ∧
    fatal.phase = .fatal := by decide

theorem witness_PopReturnsNextElement :
    done.phase = .done ∧ ({ done with rdp := 2 } : State).rdp < done.cnt ∧ done.cnt ≤ done.cfg.maxBlocks ∧
    done.cnt ≤ ({ done with rdp := 3 } : State).rdp ∧ failed.phase ≠ .done ∧ failed.phase ≠ .fatal ∧
    fatal.phase = .fatal := by decide

theorem witness_RomWindowReads :
    idle.phase = .idle ∧ idle.cfg.rc[({ idle with rcaddr := 7 } : State).rcaddr.toNat]? = some 19 ∧
    idle.cfg.rc.length ≤ ({ idle with rcaddr := 8 } : State).rcaddr.toNat ∧ inKs.phase = .ks ∧
    fatal.phase = .fatal := by decide

theorem witness_CommandProcedure :
    decode idle.cfg.dw (.wr 0x00 0) = .ok (.cmdNop 0) ∧ decode idle.cfg.dw (.wr 0x00 3) = .ok (.cmdClr 0) ∧
    decode idle.cfg.dw (.wr 0x00 4) = .ok (.cmdReserved 4) ∧
    decode wide.dw (.wr 0x00 (2 ^ 32)) = .ok (.cmdNop 1) := by decide

/-- The clauses of the start commands: accepted, an operand missing, a length too many, busy, and `FATAL`. -/
theorem witness_StartCommandsLoadKeySchedule :
    loaded.phase = .idle ∧ (loaded.k0v && loaded.k1v && loaded.nv && loaded.tv) = true ∧ loaded.cnt = loaded.len.toNat ∧
    (idle.k0v && idle.k1v && idle.nv) = false ∧ loaded.cnt ≠ ({ loaded with len := 4 } : State).len.toNat ∧
    inKs.phase ≠ .idle ∧ inKs.phase ≠ .fatal ∧ fatal.phase = .fatal ∧ Config.t101.ksLayout = .noncePlusIv := by decide

theorem witness_ClearScrubsSession :
    idle.phase = .idle ∧ done.phase = .done ∧ failed.phase = .fail ∧ inKs.phase = .ks ∧ fatal.phase = .fatal := by decide

theorem witness_ReservedCommandsAreRefused :
    4 < 2 ^ 32 ∧ 0x04 ≤ 4 % 2 ^ 8 ∧ 0x101 < 2 ^ 32 ∧ 0x101 / 2 ^ 8 ≠ 0 ∧ inKs.phase ≠ .fatal ∧ fatal.phase = .fatal := by
  decide

theorem witness_EnabledStepTable :
    inKs.phase.busy = true ∧ (atEnd .decrypt 80).phase.busy = true ∧ idle.phase.busy = false ∧
    enabledStep inKs = some .ksRound ∧ enabledStep atExit = some .ksExit ∧ enabledStep inRoll = some .rollRound ∧
    enabledStep atCommit = some .rollCommit ∧ enabledStep { atEnd .encrypt 79 with rnd := 2 } = some .finRound ∧
    enabledStep (atEnd .encrypt 79) = some .finCommitEnc ∧ enabledStep (atEnd .decrypt 79) = some .finCommitDecOk ∧
    enabledStep (atEnd .decrypt 80) = some .finCommitDecFail := by decide

theorem witness_RoundAndExitMicroSteps :
    ({ inKs with rnd := 7 } : State).rnd < inKs.cfg.rBig ∧ inKs.cfg.rc[7]? = some 19 ∧ inRoll.phase = .roll ∧
    ({ inRoll with rnd := 2 } : State).rnd < inRoll.cfg.rSmall ∧ inRoll.cfg.rc[inRoll.cfg.rcOffset + 2]? = some 19 ∧
    inKs.phase = .ks ∧ inKs.rnd = 0 ∧ inKs.cfg.rBig ≤ inKs.cfg.rc.length ∧ inRoll.rnd = 0 ∧
    inRoll.cfg.rcOffset + inRoll.cfg.rSmall ≤ inRoll.cfg.rc.length ∧ atExit.phase = .ks ∧ atExit.rnd = atExit.cfg.rBig ∧
    atExit.len.toNat ≠ 0 ∧ ({ atExit with len := 0 } : State).len.toNat = 0 := by decide

theorem witness_RollCommitMasksBlock :
    atCommit.phase = .roll ∧ atCommit.rnd = atCommit.cfg.rSmall ∧ atCommit.buf.wf = true ∧
    atCommit.blk < atCommit.cfg.maxBlocks ∧ atCommit.duplex.slot atCommit.cfg.maskSlot = some 55 ∧
    atCommit.mode = .encrypt ∧ ({ atCommit with mode := .decrypt, blk := 2 } : State).mode = .decrypt := by decide

theorem witness_FinCommitsEndSession :
    (atEnd .encrypt 79).phase = .fin ∧ (atEnd .encrypt 79).rnd = (atEnd .encrypt 79).cfg.rSmall ∧
    (atEnd .encrypt 79).duplex.slot (atEnd .encrypt 79).cfg.maskSlot = some 79 ∧ (atEnd .encrypt 79).mode = .encrypt ∧
    (atEnd .decrypt 79).mode = .decrypt ∧ (atEnd .decrypt 79).tagin = 79 ∧ (atEnd .decrypt 80).tagin ≠ 79 := by decide

/-- A step from a state with the invariant: of the sequencer, of the host, and the reset event. -/
theorem witness_steps_answer :
    seen (fun t => t.phase) (step (atEnd .decrypt 80)) = some .fail ∧
    seen (fun t => t.phase) (step (loaded.issue (.wr 0x00 1))) = some .ks ∧
    seen (fun t => t.phase) (step (failed.issue (.wr 0x00 3))) = some .idle ∧
    seen (fun t => t.phase) (step { fatal with inputs := [.reset [(0, 1)]] }) = some .fatal := by decide

theorem witness_ResetMeetsInvariant :
    Config.t101.admissible = true ∧ Config.t256.admissible = true ∧ broken.admissible = true ∧ wide.admissible = true := by
  decide

theorem witness_BusyHostChangesOnlyErr :
    inKs.phase.busy = true ∧ 4 < 2 ^ 32 ∧ 0x04 ≤ 4 % 2 ^ 8 ∧ isRead (.wrStatus 0) = false ∧ .wrStatus 0 ≠ Instr.cmdNop 0 ∧
    seen State.errWord (exec (.wrStatus 0) inKs) = some 0x100 ∧ seen (fun t => t.rdata) (exec .rdStatus inKs) = some 0x3C9 ∧
    seen State.errWord (microStep (atEnd .decrypt 80)) = some 0x002 := by decide

/-- A refusal whose bit is set already, an accepted `CLR`, and a write that raises nothing over a set bit. -/
theorem witness_TransactionRaisesAtMostOne :
    seen State.errWord (exec .rdDout { failed with err := 0x012 }) = some 0x012 ∧
    seen State.errWord (exec (.cmdClr 0) failed) = some 0 ∧
    seen State.errWord (exec (.wrK0 100) { idle with err := 0x100 }) = some 0x100 ∧
    seen State.errWord (exec (.wrK0 100) { idle with err := 0 }) = some 0 := by decide

theorem witness_ReadsChangeOnlyRdpOrErr :
    isRead .rdDout = true ∧ seen (fun t => t.rdp) (exec .rdDout done) = some 1 ∧
    seen State.errWord (exec .rdDout failed) = some 0x012 := by decide

theorem witness_FatalIsAbsorbing :
    fatal.cfg.cfgOk = false ∧ isRead (.cmdClr 0) = false ∧ isRead .rdIv = true ∧ readsInFatal .rdIv = false ∧
    readsInFatal .rdCfgRcoff = true := by decide

theorem witness_ErrBitsAreSticky :
    seen State.errWord (step ({ failed with err := 0x012 }.issue (.rd 0x02))) = some 0x012 ∧
    ({ failed with err := 0x012 } : State).err.getLsbD 4 = true := by decide

theorem witness_HostTestsInOrder :
    inKs.phase ≠ .fatal ∧ decode inKs.cfg.dw (.wr 0x08 101) = .ok (.wrK0 101) ∧ (0x08 : Addr) ≠ 0x00 ∧
    writeRefusal inKs 0x08 101 = some 4 ∧ writeRefusal loaded 0x08 101 = some 6 ∧ writeRefusal loaded 0x08 100 = none ∧
    writeRefusal { loaded with cnt := 8 } 0x0E 5 = some 7 ∧ writeRefusal inKs 0x01 0 = some 8 ∧
    readRefusal inKs 0x0F = some 4 ∧ readRefusal { done with rdp := 3 } 0x0F = some 7 ∧
    readRefusal { idle with rcaddr := 8 } 0x11 = some 8 ∧ readRefusal done 0x0F = none := by decide

/-- Two states with different keys that agree in public; both have the invariant. -/
theorem witness_HostCannotObserveSecrets :
    loaded.publicPart = { loaded with k0 := 99, buf := [(0, 1)] }.publicPart ∧
    seen (fun t => t.rdata) (exec .rdK0 loaded) = some 0 ∧
    seen (fun t => t.rdata) (exec .rdK0 { loaded with k0 := 99, buf := [(0, 1)] }) = some 0 := by decide

theorem witness_inv_other_secrets : ({ loaded with k0 := 99, buf := [(0, 1)] } : State).Inv :=
  ⟨by decide,
    ⟨by decide, by decide, by decide, by decide, by decide, by decide, by decide, by decide, by decide⟩,
    ⟨by decide, by decide, by decide, by decide, by decide, by decide, by decide, by decide, by decide⟩,
    fun _ => ⟨by decide, by decide, by decide, by decide, by decide, by decide, nofun, by decide, by decide, by decide,
      by decide, by decide, by decide, by decide⟩,
    fun h => absurd h (by decide)⟩

theorem witness_UnwrittenCellsAreUnobservable :
    sameButUnwritten idle { idle with buf := [(0, 5)] } ∧ seen (fun t => t.cnt) (step (idle.issue (.wr 0x0E 1))) = some 1 ∧
    seen (fun t => t.cnt) (step ({ idle with buf := [(0, 5)] }.issue (.wr 0x0E 1))) = some 1 :=
  ⟨⟨rfl, fun i h => absurd h (Nat.not_lt_zero i)⟩, by decide, by decide⟩

theorem witness_inv_other_cells : ({ idle with buf := [(0, 5)] } : State).Inv :=
  ⟨by decide,
    ⟨by decide, by decide, by decide, by decide, by decide, by decide, by decide, by decide, by decide⟩,
    ⟨by decide, by decide, by decide, by decide, by decide, by decide, by decide, by decide, by decide⟩,
    fun _ => ⟨by decide, by decide, by decide, by decide, by decide, by decide, nofun, by decide, by decide, by decide,
      by decide, by decide, by decide, by decide⟩,
    fun h => absurd h (by decide)⟩

theorem witness_UnverifiedPlaintextStaysHidden :
    (atEnd .decrypt 80).mode = .decrypt ∧ (atEnd .decrypt 80).authOk = false ∧
    seen State.errWord (exec .rdDout (atEnd .decrypt 80)) = some 0x010 ∧ (atEnd .decrypt 79).authOk = false ∧
    seen (fun t => t.authOk) (step (atEnd .decrypt 79)) = some true := by decide

theorem witness_KeyMustBeSuppliedAgain :
    (atEnd .decrypt 80).phase.busy = true ∧ microStep (atEnd .decrypt 80) = .next failed ∧ failed.phase.busy = false :=
  ⟨by decide, rfl, by decide⟩

theorem witness_field_prime : (FieldSpec.prime 101).IsField ∧ 100 < (FieldSpec.prime 101).order :=
  ⟨⟨by norm_num, by decide⟩, by decide⟩

theorem witness_field_binary : (FieldSpec.binary 2 7).IsField ∧ 3 < (FieldSpec.binary 2 7).order := by
  refine ⟨⟨by decide, by decide, by decide, ?_⟩, by decide⟩
  intro a b ha ha' hb hb'
  have h : ∀ a < 4, ∀ b < 4, 1 < a → 1 < b → clmul 2 a b ≠ 7 := by decide
  exact h a ha' b hb' ha hb

theorem witness_ByteEncodingRoundTrip :
    100 < Config.t101.field.order ∧ Config.t101.elementOfBytes [0x64] = some 100 ∧
    65536 < ({ Config.t101 with field := .prime 65537 } : Config).field.order := by decide

theorem witness_RefThreeIsInvertible :
    0 < (FieldSpec.prime 101).order ∧ (FieldSpec.binary 8 0x11B).shaped = true ∧
    Duplex.canonical (.binary 8 0x11B) ⟨0xFF, 0xFF, 0xFF⟩ = true ∧ 0 < (FieldSpec.binary 8 0x11B).order ∧
    1 < (FieldSpec.binary 8 0x11B).order := by decide

theorem witness_builds :
    Config.t101.admissible = true ∧ Config.t101.cfgOk = true ∧ Config.t256.admissible = true ∧ Config.t256.cfgOk = true ∧
    100 < Config.t101.field.order ∧ Config.t101.rcOffset = Config.t101.rBig - Config.t101.rSmall := by decide

theorem witness_canonicalList : canonicalList (.prime 101) [0, 100] := by
  intro x hx
  have h : ∀ x ∈ [0, 100], x < 101 := by decide
  exact h x hx

theorem witness_TagIgnoresContent :
    [10, 20, 30].length = [0, 0, 0].length ∧ [65, 67, 21] ≠ [65, 68, 21] ∧
    decrypt Config.t101 3 5 7 1 [65, 68, 21] 79 = .ok [10, 21, 30] ∧ decrypt Config.t101 3 5 7 1 [65, 67, 21] 79 = .ok [10, 20, 30] ∧
    encrypt Config.t101 3 5 7 1 [10, 20, 30] = ([65, 67, 21], 79) ∧ [10, 20, 30][2]? = some 30 ∧
    [65, 67, 21][2]? = some 21 := by decide

theorem witness_NonceReuseDisclosesDifferences :
    (encrypt Config.t101 3 5 7 1 [10]).1[0]? = some 65 ∧ (encrypt Config.t101 3 5 7 1 [100, 0]).1[0]? = some 54 ∧
    Config.t101.ksLayout = .noncePlusIv ∧ Config.t101.field.add 7 1 = Config.t101.field.add 6 2 := by decide

theorem witness_SessionStepCount :
    loaded.cfg.cfgOk = true ∧ exec (startOf .encrypt) loaded = .next inKs ∧ inKs.phase = .ks ∧ loaded.phase = .idle :=
  ⟨by decide, rfl, by decide, by decide⟩

/-- A session of three blocks, with a refused write between the start and the first turn; and a tag that fails. -/
theorem witness_sessions :
    loaded.cfg.cfgOk = true ∧ loaded.phase = .idle ∧ loaded.k0v = true ∧ loaded.k1v = true ∧ loaded.nv = true ∧
    loaded.tv = true ∧ loaded.cnt = loaded.len.toNat ∧
    (∀ e ∈ Event.host (.wr 0x08 9) :: List.replicate 24 Event.engine, e.sessionAction loaded.cfg.dw = true) ∧
    turns (.host (.wr 0x08 9) :: List.replicate 24 .engine) + 1 = nSteps loaded.cfg loaded.cnt ∧
    encrypt loaded.cfg loaded.k0 loaded.k1 loaded.nonce loaded.iv (loaded.sequence loaded.cnt) = ([65, 67, 21], 79) ∧
    decrypt loaded.cfg loaded.k0 loaded.k1 loaded.nonce loaded.iv (loaded.sequence loaded.cnt) loaded.tagin =
      .ok [56, 74, 39] ∧
    decrypt loaded.cfg loaded.k0 loaded.k1 loaded.nonce loaded.iv (loaded.sequence loaded.cnt) 80 =
      .error .authenticationError := by decide

theorem witness_SessionIgnoresInterleaving :
    ∀ j, j ≤ turns [.host (.wr 0x08 9), .engine] → ∃ u, microSteps j inKs = .next u ∧ u.phase.busy = true := by
  intro j hj
  have h : j = 0 ∨ j = 1 := by
    have : turns [.host (.wr 0x08 9), .engine] = 1 := by decide
    omega
  rcases h with rfl | rfl
  · exact ⟨inKs, rfl, rfl⟩
  · exact ⟨{ inKs with duplex := ⟨31, 74, 34⟩, rnd := 1 }, rfl, rfl⟩

/-- A full buffer, the operands and the pushes in mixed order, the largest IV, a poll before the first turn, and a tag that
fails beside the one that verifies. -/
theorem witness_SessionProtocolIsNeverRefused :
    idle.cfg.cfgOk = true ∧ idle.phase = .idle ∧ idle.cnt = 0 ∧ idle.err = 0 ∧ [1, 2].length ≤ idle.cfg.maxBlocks ∧
    [1, 2, 3, 4, 5, 6, 7, 8].length ≤ idle.cfg.maxBlocks ∧ 100 < idle.cfg.field.order ∧
    (∀ v ∈ some 100, v < idle.cfg.field.order) ∧ (∀ v ∈ (none : Option Elt), v < idle.cfg.field.order) ∧
    waiting (nSteps idle.cfg 2) (readEvent .status :: List.replicate 22 .engine) ∧
    decrypt idle.cfg 3 5 7 1 [] 55 = .ok [] ∧
    decrypt idle.cfg 3 5 7 1 [1, 2] 55 = .error .authenticationError := by
  refine ⟨by decide, by decide, by decide, by decide, by decide, by decide, by decide, ?_, nofun, ?_, by decide, by decide⟩
  · rintro v ⟨rfl⟩; decide
  · unfold waiting; decide

theorem witness_loadSequence :
    loadSequence (operandWrites 3 5 7 (some 100) none 2) [1, 2]
      [writeEvent .din 1, writeEvent .iv 100, writeEvent .k1 5, writeEvent .len 2, writeEvent .din 2, writeEvent .nonce 7,
        writeEvent .k0 3] ∧
    loadSequence (operandWrites 3 5 7 none (some 55) 0) []
      [writeEvent .tagin 55, writeEvent .len 0, writeEvent .nonce 7, writeEvent .k0 3, writeEvent .k1 5] := by
  unfold loadSequence; decide

theorem witness_resultsReadable :
    (∀ e ∈ [readEvent .dout, readEvent .tagout, readEvent .dout], e = readEvent .dout ∨ e = readEvent .tagout) ∧
    [readEvent .dout, readEvent .tagout, readEvent .dout].count (readEvent .dout) ≤ [65, 67, 21].length ∧
    [readEvent .dout, readEvent .tagout, readEvent .dout].getLast? = some (readEvent .dout) ∧
    [readEvent .dout, readEvent .tagout].getLast? = some (readEvent .tagout) := by decide

end Sys2Proof.Tests
end

section
/-! Field elements as elements of a ring: `ZMod p` for GF(p), and the polynomials over `ZMod 2` modulo `POLY` for
GF(2^n) (R82 to R84). -/

namespace Sys2Proof

open Polynomial

/-! ## A natural number as a polynomial over `ZMod 2` (R83) -/

/-- The polynomial over `ZMod 2` whose coefficients are the bits of `k` (R83). -/
noncomputable def bitPoly (k : Nat) : (ZMod 2)[X] :=
  ∑ i ∈ Finset.range k, if k.testBit i then X ^ i else 0

@[simp] theorem coeff_bitPoly (k i : Nat) : (bitPoly k).coeff i = if k.testBit i then 1 else 0 := by
  have hlt : k.testBit i = true → i < k := fun h => Nat.lt_two_pow_self.trans_le (Nat.ge_two_pow_of_testBit h)
  simp only [bitPoly, finsetSum_coeff, apply_ite (fun p : (ZMod 2)[X] => p.coeff i), coeff_X_pow, coeff_zero]
  rw [Finset.sum_eq_single i]
  · simp
  · intro j _ hj
    simp [hj.symm]
  · intro hi
    have hbit : k.testBit i = false := by
      by_contra hb
      exact hi (Finset.mem_range.mpr (hlt (by simpa using hb)))
    simp [hbit]

@[simp] theorem bitPoly_zero : bitPoly 0 = 0 := by
  simp [bitPoly]

@[simp] theorem bitPoly_one : bitPoly 1 = 1 := by
  simp [bitPoly]

/-- The exclusive or of the bits is the sum of the polynomials. -/
@[simp] theorem bitPoly_xor (a b : Nat) : bitPoly (a ^^^ b) = bitPoly a + bitPoly b := by
  ext i
  have hadd : ∀ x y : Bool, (if (x ^^ y) then 1 else 0 : ZMod 2) = (if x then 1 else 0) + if y then 1 else 0 := by
    decide
  simp only [coeff_bitPoly, coeff_add, Nat.testBit_xor, hadd]

theorem bitPoly_injective : Function.Injective bitPoly := by
  intro a b h
  refine Nat.eq_of_testBit_eq fun i => ?_
  have hi : (bitPoly a).coeff i = (bitPoly b).coeff i := by rw [h]
  cases ha : a.testBit i <;> cases hb : b.testBit i <;> simp [ha, hb] at hi ⊢

/-- Doubling is multiplication by `x`. -/
@[simp] theorem bitPoly_two_mul (a : Nat) : bitPoly (2 * a) = X * bitPoly a := by
  ext i
  cases i with
  | zero => simp
  | succ i => simp [Nat.testBit_succ]

/-- The lowest bit of `b` and the rest, as the loops of `clmul` and `mulLoop` take them. -/
theorem bitPoly_bit_div (b : Nat) : bitPoly b = (if b % 2 = 1 then 1 else 0) + X * bitPoly (b / 2) := by
  ext i
  cases i with
  | zero => by_cases h : b % 2 = 1 <;> simp [Nat.testBit_zero, h]
  | succ i => by_cases h : b % 2 = 1 <;> simp [Nat.testBit_succ, h, coeff_one]

theorem degree_bitPoly_lt (n k : Nat) (h : k < 2 ^ n) : (bitPoly k).degree < n := by
  rw [degree_lt_iff_coeff_zero]
  intro m hm
  have hk : k < 2 ^ m := h.trans_le (Nat.pow_le_pow_right (by decide) hm)
  simp [Nat.testBit_lt_two_pow hk]

/-- Every polynomial of degree below `n` is that of an `n`-bit number. -/
theorem exists_bitPoly_eq (n : Nat) (p : (ZMod 2)[X]) (h : p.degree < n) : ∃ k, k < 2 ^ n ∧ bitPoly k = p := by
  refine ⟨Nat.ofBits fun i : Fin n => decide (p.coeff i = 1), Nat.ofBits_lt_two_pow _, ?_⟩
  ext i
  have hbit : ∀ c : ZMod 2, (if decide (c = 1) = true then 1 else 0) = c := by decide
  by_cases hi : i < n
  · rw [coeff_bitPoly, Nat.testBit_ofBits_lt _ _ hi, hbit]
  · have hz : p.coeff i = 0 := (degree_lt_iff_coeff_zero p n).mp h i (not_lt.mp hi)
    rw [coeff_bitPoly, Nat.testBit_ofBits_ge _ _ (not_lt.mp hi), hz]
    simp

/-! ## The polynomial `POLY` -/

/-- Bit `n` of a polynomial of degree `n` is set (R83). -/
theorem testBit_of_shaped (n poly : Nat) (hlo : 2 ^ n ≤ poly) (hhi : poly < 2 ^ (n + 1)) : poly.testBit n = true := by
  have hq : poly / 2 ^ n = 1 := Nat.div_eq_of_lt_le (by omega) (by omega)
  simp [Nat.testBit_eq_decide_div_mod_eq, hq]

/-- A number of `n + 1` bits whose bit `n` is clear has `n` bits. -/
theorem lt_of_testBit_false (n k : Nat) (hk : k < 2 ^ (n + 1)) (hb : k.testBit n = false) : k < 2 ^ n := by
  by_contra hge
  simp [testBit_of_shaped n k (not_lt.mp hge) hk] at hb

theorem degree_bitPoly_of_shaped (n poly : Nat) (hlo : 2 ^ n ≤ poly) (hhi : poly < 2 ^ (n + 1)) :
    (bitPoly poly).degree = n := by
  refine le_antisymm ?_ (le_degree_of_ne_zero (by simp [testBit_of_shaped n poly hlo hhi]))
  rw [degree_le_iff_coeff_zero]
  exact fun m hm => coeff_eq_zero_of_degree_lt
    ((degree_bitPoly_lt (n + 1) poly hhi).trans_le (Nat.cast_le.mpr (Nat.cast_lt.mp hm)))

theorem monic_bitPoly_of_shaped (n poly : Nat) (hlo : 2 ^ n ≤ poly) (hhi : poly < 2 ^ (n + 1)) :
    (bitPoly poly).Monic :=
  monic_of_degree_le n (degree_bitPoly_of_shaped n poly hlo hhi).le (by simp [testBit_of_shaped n poly hlo hhi])

/-- `clmul` is the product of the polynomials, where its fuel covers the bits of `b`. -/
theorem bitPoly_clmul (fuel a b : Nat) (hb : b < 2 ^ fuel) : bitPoly (clmul fuel a b) = bitPoly a * bitPoly b := by
  induction fuel generalizing a b with
  | zero =>
    obtain rfl : b = 0 := by simpa using hb
    simp [clmul]
  | succ fuel ih =>
    have hb' : b / 2 < 2 ^ fuel := by omega
    rw [clmul, bitPoly_xor, ih _ _ hb', bitPoly_two_mul, bitPoly_bit_div b]
    by_cases h : b % 2 = 1 <;> simp only [h, if_true, if_false, bitPoly_zero] <;> ring

/-- Only 0 and 1 have constant polynomials. -/
theorem one_lt_of_natDegree_bitPoly (k : Nat) (h : (bitPoly k).natDegree ≠ 0) : 1 < k := by
  by_contra hk
  obtain rfl | rfl : k = 0 ∨ k = 1 := by omega
  · simp at h
  · simp at h

/-- `PolyIrreducible` is irreducibility of the polynomial (R83). -/
theorem irreducible_bitPoly (n poly : Nat) (hn : n ≠ 0) (h : PolyIrreducible n poly) : Irreducible (bitPoly poly) := by
  obtain ⟨hlo, hhi, hprod⟩ := h
  have hdeg := degree_bitPoly_of_shaped n poly hlo hhi
  have hmonic := monic_bitPoly_of_shaped n poly hlo hhi
  have hone : bitPoly poly ≠ 1 := fun h1 => hn (by simpa [h1, eq_comm] using hdeg)
  refine hmonic.irreducible_iff_natDegree.mpr ⟨hone, fun p q hp hq hpq => ?_⟩
  by_contra! hpos
  have hsum : p.natDegree + q.natDegree = n := by
    rw [← hp.natDegree_mul hq, hpq]
    exact natDegree_eq_of_degree_eq_some hdeg
  obtain ⟨a, ha, rfl⟩ := exists_bitPoly_eq n p ((natDegree_lt_iff_degree_lt hp.ne_zero).mp (by omega))
  obtain ⟨b, hb, rfl⟩ := exists_bitPoly_eq n q ((natDegree_lt_iff_degree_lt hq.ne_zero).mp (by omega))
  refine hprod a b (one_lt_of_natDegree_bitPoly a hpos.1) ha (one_lt_of_natDegree_bitPoly b hpos.2) hb ?_
  exact bitPoly_injective ((bitPoly_clmul n a b hb).trans hpq)

/-! ## The loop of R83 as multiplication modulo `POLY` -/

/-- One doubling of the loop of R83: `a` times `x`, reduced by `poly`. -/
def doubleMod (n poly a : Nat) : Nat :=
  if (2 * a).testBit n then 2 * a ^^^ poly else 2 * a

theorem mulLoop_succ (n poly fuel r a b : Nat) :
    mulLoop n poly (fuel + 1) r a b =
      mulLoop n poly fuel (if b % 2 = 1 then r ^^^ a else r) (doubleMod n poly a) (b / 2) := rfl

/-- The reduction clears bit `n`, so that the double is canonical again. -/
theorem doubleMod_lt (n poly a : Nat) (hlo : 2 ^ n ≤ poly) (hhi : poly < 2 ^ (n + 1)) (ha : a < 2 ^ n) :
    doubleMod n poly a < 2 ^ n := by
  have hd : 2 * a < 2 ^ (n + 1) := by omega
  unfold doubleMod
  split
  · next h =>
    refine lt_of_testBit_false n _ (Nat.xor_lt_two_pow hd hhi) ?_
    simp [h, testBit_of_shaped n poly hlo hhi]
  · next h => exact lt_of_testBit_false n _ hd (by simpa using h)

theorem mulLoop_lt (n poly fuel r a b : Nat) (hlo : 2 ^ n ≤ poly) (hhi : poly < 2 ^ (n + 1)) (hr : r < 2 ^ n)
    (ha : a < 2 ^ n) : mulLoop n poly fuel r a b < 2 ^ n := by
  induction fuel generalizing r a b with
  | zero => exact hr
  | succ fuel ih =>
    rw [mulLoop_succ]
    refine ih _ _ _ ?_ (doubleMod_lt n poly a hlo hhi ha)
    split
    · exact Nat.xor_lt_two_pow hr ha
    · exact hr

/-- The residue class modulo `poly` of the polynomial whose bits are those of `k`. -/
noncomputable def bitClass (poly k : Nat) : AdjoinRoot (bitPoly poly) :=
  AdjoinRoot.mk (bitPoly poly) (bitPoly k)

@[simp] theorem bitClass_zero (poly : Nat) : bitClass poly 0 = 0 := by
  simp [bitClass]

@[simp] theorem bitClass_one (poly : Nat) : bitClass poly 1 = 1 := by
  simp [bitClass]

theorem bitClass_xor (poly a b : Nat) : bitClass poly (a ^^^ b) = bitClass poly a + bitClass poly b := by
  simp [bitClass]

theorem bitClass_doubleMod (n poly a : Nat) :
    bitClass poly (doubleMod n poly a) = AdjoinRoot.root (bitPoly poly) * bitClass poly a := by
  unfold doubleMod
  split <;> simp [bitClass]

theorem bitClass_bit_div (poly b : Nat) :
    bitClass poly b = (if b % 2 = 1 then 1 else 0) + AdjoinRoot.root (bitPoly poly) * bitClass poly (b / 2) := by
  simp [bitClass, bitPoly_bit_div b, apply_ite]

/-- The loop adds the product of `a` and `b` to `r`, modulo `poly`. -/
theorem bitClass_mulLoop (n poly fuel r a b : Nat) (hb : b < 2 ^ fuel) :
    bitClass poly (mulLoop n poly fuel r a b) = bitClass poly r + bitClass poly a * bitClass poly b := by
  induction fuel generalizing r a b with
  | zero =>
    obtain rfl : b = 0 := by simpa using hb
    simp [mulLoop]
  | succ fuel ih =>
    have hb' : b / 2 < 2 ^ fuel := by omega
    rw [mulLoop_succ, ih _ _ _ hb', bitClass_doubleMod, bitClass_bit_div poly b]
    by_cases h : b % 2 = 1
    · simp only [h, if_true, bitClass_xor]; ring
    · simp only [h, if_false]; ring

/-- Two canonical numbers in one residue class are equal. -/
theorem bitClass_inj (n poly a b : Nat) (hlo : 2 ^ n ≤ poly) (hhi : poly < 2 ^ (n + 1)) (ha : a < 2 ^ n)
    (hb : b < 2 ^ n) (h : bitClass poly a = bitClass poly b) : a = b := by
  have hdvd : bitPoly poly ∣ bitPoly a - bitPoly b := AdjoinRoot.mk_eq_mk.mp h
  have hlt : (bitPoly a - bitPoly b).degree < (bitPoly poly).degree := by
    rw [degree_bitPoly_of_shaped n poly hlo hhi]
    exact (degree_sub_le _ _).trans_lt (max_lt (degree_bitPoly_lt n a ha) (degree_bitPoly_lt n b hb))
  exact bitPoly_injective (sub_eq_zero.mp (eq_zero_of_dvd_of_degree_lt hdvd hlt))

/-- Every residue class has a canonical number: that of the remainder. -/
theorem exists_bitClass_eq (n poly : Nat) (hlo : 2 ^ n ≤ poly) (hhi : poly < 2 ^ (n + 1))
    (x : AdjoinRoot (bitPoly poly)) : ∃ k, k < 2 ^ n ∧ bitClass poly k = x := by
  obtain ⟨p, rfl⟩ := AdjoinRoot.mk_surjective x
  have hmonic := monic_bitPoly_of_shaped n poly hlo hhi
  have hrem : (p %ₘ bitPoly poly).degree < n := by
    rw [← degree_bitPoly_of_shaped n poly hlo hhi]
    exact degree_modByMonic_lt p hmonic
  obtain ⟨k, hk, hkp⟩ := exists_bitPoly_eq n _ hrem
  refine ⟨k, hk, ?_⟩
  rw [bitClass, hkp, AdjoinRoot.mk_eq_mk, modByMonic_eq_sub_mul_div, sub_sub_cancel_left, dvd_neg]
  exact dvd_mul_right _ _

/-! ## The structures of R82 and R83 as rings -/

/-- `e` takes the canonical representatives of `f` one to one onto the ring `K`, the arithmetic of R82 and R83 to that
of `K`. -/
structure FieldSpec.Represents (f : FieldSpec) {K : Type} [CommRing K] (e : Elt → K) : Prop where
  map_zero : e 0 = 0
  map_one : e 1 = 1
  add_lt : ∀ a b, a < f.order → b < f.order → f.add a b < f.order
  map_add : ∀ a b, a < f.order → b < f.order → e (f.add a b) = e a + e b
  mul_lt : ∀ a b, a < f.order → b < f.order → f.mul a b < f.order
  map_mul : ∀ a b, a < f.order → b < f.order → e (f.mul a b) = e a * e b
  inj : ∀ a b, a < f.order → b < f.order → e a = e b → a = b
  surj : ∀ x, ∃ a, a < f.order ∧ e a = x

/-- GF(p) is `ZMod p` (R82). -/
theorem FieldSpec.represents_prime (p : Nat) [NeZero p] :
    (FieldSpec.prime p).Represents (Nat.cast : Nat → ZMod p) where
  map_zero := Nat.cast_zero
  map_one := Nat.cast_one
  add_lt _ _ _ _ := Nat.mod_lt _ (NeZero.pos p)
  map_add a b _ _ := by simp [FieldSpec.add]
  mul_lt _ _ _ _ := Nat.mod_lt _ (NeZero.pos p)
  map_mul a b _ _ := by simp [FieldSpec.mul]
  inj a b ha hb h := Nat.ModEq.eq_of_lt_of_lt ((ZMod.natCast_eq_natCast_iff a b p).mp h) ha hb
  surj x := ⟨x.val, x.val_lt, ZMod.natCast_zmod_val x⟩

/-- GF(2^n) is the polynomials over `ZMod 2` modulo `POLY` (R83). -/
theorem FieldSpec.represents_binary (n poly : Nat) (hlo : 2 ^ n ≤ poly) (hhi : poly < 2 ^ (n + 1)) :
    (FieldSpec.binary n poly).Represents (bitClass poly) where
  map_zero := bitClass_zero poly
  map_one := bitClass_one poly
  add_lt _ _ := Nat.xor_lt_two_pow
  map_add a b _ _ := bitClass_xor poly a b
  mul_lt a b ha _ := mulLoop_lt n poly n 0 a b hlo hhi (Nat.two_pow_pos n) ha
  map_mul a b _ hb := by
    rw [FieldSpec.mul, bitClass_mulLoop n poly n 0 a b hb, bitClass_zero, zero_add]
  inj a b := bitClass_inj n poly a b hlo hhi
  surj := exists_bitClass_eq n poly hlo hhi

/-- A conforming `FIELD` is a field (R6, R84). -/
theorem FieldSpec.exists_field_represents (f : FieldSpec) (hf : f.IsField) :
    ∃ (K : Type) (_ : Field K) (e : Elt → K), f.Represents e := by
  cases f with
  | prime p =>
    obtain ⟨hp, -⟩ := hf
    have : Fact p.Prime := ⟨hp⟩
    exact ⟨ZMod p, inferInstance, Nat.cast, FieldSpec.represents_prime p⟩
  | binary n poly =>
    obtain ⟨hn, hirr⟩ := hf
    have : Fact (Irreducible (bitPoly poly)) := ⟨irreducible_bitPoly n poly (by omega) hirr⟩
    exact ⟨AdjoinRoot (bitPoly poly), inferInstance, bitClass poly,
      FieldSpec.represents_binary n poly hirr.1 hirr.2.1⟩

/-- A field has at least the elements 0 and 1 (R85). -/
theorem FieldSpec.IsField.one_lt_order {f : FieldSpec} (hf : f.IsField) : 1 < f.order := by
  cases f with
  | prime p => exact hf.1.one_lt
  | binary n poly =>
    obtain ⟨hn, -⟩ := hf
    exact Nat.one_lt_two_pow (by omega)

/-- Where `f` is a field, the element that represents the inverse is the inverse. -/
theorem FieldSpec.Represents.exists_mul_eq_one {f : FieldSpec} {K : Type} [Field K] {e : Elt → K}
    (he : f.Represents e) (h1 : 1 < f.order) (a : Elt) (ha : a < f.order) (h0 : a ≠ 0) :
    ∃ b, b < f.order ∧ f.mul a b = 1 := by
  have hea : e a ≠ 0 := fun h => h0 (he.inj a 0 ha (by omega) (h.trans he.map_zero.symm))
  obtain ⟨b, hb, hinv⟩ := he.surj (e a)⁻¹
  refine ⟨b, hb, he.inj _ _ (he.mul_lt a b ha hb) h1 ?_⟩
  rw [he.map_mul a b ha hb, hinv, mul_inv_cancel₀ hea, he.map_one]

/-- Settles O46: a conforming `FIELD` is represented by a field, whose inverses come back as elements. -/
theorem nonzeroElementsAreInvertible : Obligations.NonzeroElementsAreInvertible := by
  intro f a hf ha h0
  obtain ⟨K, _, e, he⟩ := f.exists_field_represents hf
  exact he.exists_mul_eq_one hf.one_lt_order a ha h0

end Sys2Proof
end

section
/-! Steps of the machine: what the next action makes of a step, and that no action touches the configuration or the
actions after it. -/

namespace Sys2Proof.Machine

/-! ## The commits at the end of a session -/

/-- `FIN-commit-ENC`, where it answers (R196). -/
theorem finCommitEnc_cases (s t : State) (h : finCommitEnc s = .next t) :
    ∃ m, s.duplex.slot s.cfg.maskSlot = some m ∧
      t = { State.scrub { s with tagout := m, tagv := true } with phase := .done } := by
  unfold finCommitEnc at h
  split at h
  · simp at h
  · next m hm => exact ⟨m, hm, by simpa using h.symm⟩

/-- `FIN-commit-DEC-fail`, where it answers (R198). -/
theorem finCommitDecFail_cases (s t : State) (h : finCommitDecFail s = .next t) :
    (∃ m, s.duplex.slot s.cfg.maskSlot = some m) ∧
      t = { State.scrub (State.zeroBuf (s.raise .auth)) with phase := .fail } := by
  unfold finCommitDecFail at h
  split at h
  · simp at h
  · next m hm => exact ⟨⟨m, hm⟩, by simpa using h.symm⟩

/-! ## What no operation and no turn touches -/

/-- The configuration and the actions to come are the same. -/
def sameBuildAndQueue (s t : State) : Prop :=
  t.cfg = s.cfg ∧ t.inputs = s.inputs

/-- No host operation changes the configuration, or the actions after it. -/
theorem HostEffect.sameBuildAndQueue {i : Instr} {s t : State} (h : HostEffect i s t) : sameBuildAndQueue s t := by
  cases h <;> exact ⟨rfl, rfl⟩

theorem roundStep_sameBuildAndQueue {base : Nat} {s t : State} (h : roundStep base s = .next t) :
    sameBuildAndQueue s t := by
  obtain ⟨-, rfl⟩ := roundStep_cases base s t h
  exact ⟨rfl, rfl⟩

/-- No micro-step changes the configuration or the actions to come. -/
theorem microStep_sameBuildAndQueue {s t : State} (h : microStep s = .next t) : sameBuildAndQueue s t := by
  rcases microStep_cases s t h with ⟨-, rfl⟩ | ⟨-, -, hks⟩ | ⟨-, -, hexit⟩ | ⟨-, -, hroll⟩ | ⟨-, -, hcommit⟩ |
    ⟨-, -, hfin⟩ | ⟨-, -, -, henc⟩ | ⟨-, -, -, -, hok⟩ | ⟨-, -, -, -, hfail⟩
  · exact ⟨rfl, rfl⟩
  · exact roundStep_sameBuildAndQueue hks
  · cases hexit
    exact ⟨rfl, rfl⟩
  · exact roundStep_sameBuildAndQueue hroll
  · obtain ⟨-, m, -, rfl⟩ := rollCommit_cases s t hcommit
    exact ⟨rfl, rfl⟩
  · exact roundStep_sameBuildAndQueue hfin
  · obtain ⟨m, -, rfl⟩ := finCommitEnc_cases s t henc
    exact ⟨rfl, rfl⟩
  · cases hok
    exact ⟨rfl, rfl⟩
  · obtain ⟨-, rfl⟩ := finCommitDecFail_cases s t hfail
    exact ⟨rfl, rfl⟩

/-! ## The obligations about a step -/

/-- Settles O5: the queue of `s` is the one `step_of_host` speaks of. -/
theorem stepRunsDecodedTransaction : Obligations.StepRunsDecodedTransaction := by
  intro s t rest i hin hdec
  have hs : s = { s with inputs := .host t :: rest } := by rw [← hin]
  calc step s = step { s with inputs := .host t :: rest } := congrArg step hs
    _ = exec i { s with inputs := rest } := step_of_host s t rest i hdec

/-- A step with no action queued is a turn of the sequencer (R205). -/
theorem step_of_empty (s : State) (h : s.inputs = []) : step s = microStep s := by
  simp only [step, fetch, h]

/-- Settles O6, by the two forms of the queue that give the sequencer its turn. -/
theorem stepGivesSequencerItsTurn : Obligations.StepGivesSequencerItsTurn := by
  intro s rest
  refine ⟨fun hin => ?_, step_of_empty s⟩
  have hs : s = { s with inputs := .engine :: rest } := by rw [← hin]
  calc step s = step { s with inputs := .engine :: rest } := congrArg step hs
    _ = microStep { s with inputs := rest } := step_of_engine s rest

/-- Settles O32, by what a step can be: an operation, a turn of the sequencer, or the reset event. -/
theorem configurationNeverChanges : Obligations.ConfigurationNeverChanges := by
  intro s t h
  rcases step_cases s t h with ⟨tr, rest, i, hin, -, hop⟩ | ⟨rest, hin, hturn⟩ | ⟨noise, rest, hin, rfl⟩
  · obtain ⟨hcfg, hqueue⟩ := (exec_effect i _ t hop).sameBuildAndQueue
    exact ⟨hcfg, by simp [hqueue, hin]⟩
  · obtain ⟨hcfg, hqueue⟩ := microStep_sameBuildAndQueue hturn
    refine ⟨hcfg, hqueue.trans ?_⟩
    rcases hin with hin | ⟨hin, rfl⟩ <;> simp [hin]
  · exact ⟨rfl, by simp [hin]⟩

end Sys2Proof.Machine
end

section
/-! Turns of the sequencer, inverted: all that one micro-step can make of a state, said once as `HostEffect` says it of
the host operations (R190 to R199). -/

namespace Sys2Proof.Machine

/-- What a turn of the sequencer can make of the state `s` where it answers a next state. -/
inductive TurnEffect : State → State → Prop where
  /-- No micro-step is enabled (R190). -/
  | nothing (s : State) : TurnEffect s s
  /-- A round with the ROM word `i`, below the limit of the phase's round counter (R191, R193, R195). -/
  | round (s : State) (i : Nat) (hb : s.phase.busy = true) (hks : s.phase = .ks → s.rnd < s.cfg.rBig)
      (hsmall : s.phase ≠ .ks → s.rnd < s.cfg.rSmall) :
      TurnEffect s { s with duplex := roundOf s.cfg s.duplex (romWord s.cfg i), rnd := s.rnd + 1 }
  /-- `KS-exit` (R192). -/
  | ksExit (s : State) (hp : s.phase = .ks) :
      TurnEffect s { s with rnd := 0, phase := if s.len.toNat = 0 then .fin else .roll }
  /-- `ROLL-commit` with the mask `m` (R194). -/
  | rollCommit (s : State) (m : Elt) (hp : s.phase = .roll) (hlt : s.blk < s.cfg.maxBlocks)
      (hm : s.duplex.slot s.cfg.maskSlot = some m) :
      TurnEffect s { s with
        buf := s.buf.write s.blk (maskBlock s.cfg s.mode (s.buf.read s.blk) m),
        duplex := refillOf s.cfg s.duplex, blk := s.blk + 1, rnd := 0,
        phase := if s.blk + 1 = s.len.toNat then .fin else .roll }
  /-- `FIN-commit-ENC` (R196). -/
  | finEnc (s : State) (m : Elt) (hp : s.phase = .fin) (hmode : s.mode = .encrypt)
      (hm : s.duplex.slot s.cfg.maskSlot = some m) :
      TurnEffect s { State.scrub { s with tagout := m, tagv := true } with phase := .done }
  /-- `FIN-commit-DEC-ok` (R197). -/
  | finDecOk (s : State) (hp : s.phase = .fin) (hmode : s.mode = .decrypt)
      (hm : s.duplex.slot s.cfg.maskSlot = some s.tagin) :
      TurnEffect s { State.scrub { s with authOk := true } with phase := .done }
  /-- `FIN-commit-DEC-fail` (R198). -/
  | finDecFail (s : State) (hp : s.phase = .fin) (hmode : s.mode = .decrypt) :
      TurnEffect s { State.scrub (State.zeroBuf (s.raise .auth)) with phase := .fail }

theorem TurnEffect.of_round {base : Nat} {s t : State} (hb : s.phase.busy = true)
    (hks : s.phase = .ks → s.rnd < s.cfg.rBig) (hsmall : s.phase ≠ .ks → s.rnd < s.cfg.rSmall)
    (h : roundStep base s = .next t) : TurnEffect s t := by
  obtain ⟨-, rfl⟩ := roundStep_cases base s t h
  exact .round s _ hb hks hsmall

/-- The inversion of `microStep`: every next state is one of the effects above. -/
theorem microStep_effect {s t : State} (h : microStep s = .next t) : TurnEffect s t := by
  rcases microStep_cases s t h with ⟨-, rfl⟩ | ⟨hp, hr, hks⟩ | ⟨hp, -, hexit⟩ | ⟨hp, hr, hroll⟩ | ⟨hp, -, hcommit⟩ |
    ⟨hp, hr, hfin⟩ | ⟨hp, -, hmode, henc⟩ | ⟨hp, -, hmode, hm, hok⟩ | ⟨hp, -, hmode, -, hfail⟩
  · exact .nothing _
  · exact .of_round (by simp [hp, Phase.busy]) (fun _ => hr) (fun hne => absurd hp hne) hks
  · cases hexit
    exact .ksExit s hp
  · exact .of_round (by simp [hp, Phase.busy]) (by simp [hp]) (fun _ => hr) hroll
  · obtain ⟨hlt, m, hm, rfl⟩ := rollCommit_cases s t hcommit
    exact .rollCommit s m hp hlt hm
  · exact .of_round (by simp [hp, Phase.busy]) (by simp [hp]) (fun _ => hr) hfin
  · obtain ⟨m, hm, rfl⟩ := finCommitEnc_cases s t henc
    exact .finEnc s m hp hmode hm
  · cases hok
    exact .finDecOk s hp hmode hm
  · obtain ⟨-, rfl⟩ := finCommitDecFail_cases s t hfail
    exact .finDecFail s hp hmode

end Sys2Proof.Machine
end

section
/-! Canonical representatives: the field operations, the round function and the duplex operations give canonical elements
for canonical ones, in every admissible build (R81). -/

namespace Sys2Proof

/-! ## The parts of an admissible build -/

/-- The constraints of an admissible build on its values (R6, R90), apart from the sizes of the `CFG_*` fields. -/
theorem Config.admissible_values {c : Config} (h : c.admissible = true) :
    2 ≤ c.field.order ∧ c.field.shaped = true ∧ (∀ x ∈ c.rc, x < c.field.order) ∧
      c.refill.canonical c.field = true := by
  simp only [Config.admissible, Bool.and_eq_true, decide_eq_true_eq, List.all_eq_true, FieldSpec.canonical] at h
  obtain ⟨⟨⟨⟨horder, hshaped⟩, hrc⟩, hrefill⟩, -⟩ := h
  exact ⟨horder, hshaped, hrc, hrefill⟩

theorem Config.order_pos {c : Config} (h : c.admissible = true) : 0 < c.field.order := by
  obtain ⟨horder, -⟩ := Config.admissible_values h
  omega

/-! ## The field operations -/

theorem FieldSpec.add_lt_order (f : FieldSpec) (a b : Elt) (ha : a < f.order) (hb : b < f.order) :
    f.add a b < f.order := by
  cases f with
  | prime p => exact Nat.mod_lt _ (Nat.zero_lt_of_lt ha)
  | binary n poly => exact Nat.xor_lt_two_pow ha hb

theorem FieldSpec.sub_lt_order (f : FieldSpec) (a b : Nat) (ha : a < f.order) (hb : b < f.order) :
    f.sub a b < f.order := by
  cases f with
  | prime p =>
    replace ha : a < p := ha
    replace hb : b < p := hb
    change (if b ≤ a then a - b else a + p - b) < p
    split <;> omega
  | binary n poly => exact Nat.xor_lt_two_pow ha hb

/-- Multiplication needs a reduction polynomial of degree `n` (R83). -/
theorem FieldSpec.mul_lt_order (f : FieldSpec) (hf : f.shaped = true) (a b : Elt) (ha : a < f.order) :
    f.mul a b < f.order := by
  cases f with
  | prime p => exact Nat.mod_lt _ (Nat.zero_lt_of_lt ha)
  | binary n poly =>
    simp only [FieldSpec.shaped, decide_eq_true_eq] at hf
    obtain ⟨hlo, hhi⟩ := hf
    exact mulLoop_lt n poly n 0 a b hlo hhi (Nat.two_pow_pos n) ha

end Sys2Proof

namespace Sys2Proof.Machine

/-! ## The duplex operations -/

theorem Duplex.canonical_iff (f : FieldSpec) (d : Duplex) :
    d.canonical f = true ↔ d.s0 < f.order ∧ d.s1 < f.order ∧ d.s2 < f.order := by
  simp [Duplex.canonical, FieldSpec.canonical, and_assoc]

theorem Duplex.canonical_zero (f : FieldSpec) (h : 0 < f.order) : Duplex.zero.canonical f = true :=
  (Duplex.canonical_iff f _).mpr ⟨h, h, h⟩

theorem Duplex.slot_lt_order {f : FieldSpec} {d : Duplex} {i : Nat} {v : Elt} (hd : d.canonical f = true)
    (hv : d.slot i = some v) : v < f.order := by
  obtain ⟨h0, h1, h2⟩ := (Duplex.canonical_iff f d).mp hd
  unfold Duplex.slot at hv
  split at hv <;> simp_all

theorem Duplex.canonical_setSlot {f : FieldSpec} {d : Duplex} (i : Nat) {v : Elt} (hd : d.canonical f = true)
    (hv : v < f.order) : (d.setSlot i v).canonical f = true := by
  obtain ⟨h0, h1, h2⟩ := (Duplex.canonical_iff f d).mp hd
  unfold Duplex.setSlot
  split <;> simp [Duplex.canonical_iff, h0, h1, h2, hv]

theorem ref3_canonical (f : FieldSpec) (hf : f.shaped = true) (d : Duplex) (rc : Elt) (hd : d.canonical f = true)
    (hrc : rc < f.order) : (ref3 f d rc).canonical f = true := by
  obtain ⟨h0, h1, h2⟩ := (Duplex.canonical_iff f d).mp hd
  have ht := f.add_lt_order _ _ h2 (f.mul_lt_order hf _ d.s1 h0)
  have hmul := f.mul_lt_order hf rc (f.add d.s1 (f.add d.s2 (f.mul d.s0 d.s1))) hrc
  exact (Duplex.canonical_iff f _).mpr
    ⟨f.add_lt_order _ _ ht hrc, f.add_lt_order _ _ (f.add_lt_order _ _ h0 hmul) hrc,
      f.add_lt_order _ _ (f.add_lt_order _ _ h1 ht) hrc⟩

/-- A withheld round gives elements of `Fin order` (R88). -/
theorem withheldRound_canonical (f : FieldSpec) (k : Nat) (d : Duplex) (rc : Elt) (hd : d.canonical f = true) :
    (withheldRound f k d rc).canonical f = true := by
  unfold withheldRound
  split
  · exact (Duplex.canonical_iff f _).mpr ⟨Fin.isLt _, Fin.isLt _, Fin.isLt _⟩
  · exact hd

theorem romWord_lt_order {c : Config} (hc : c.admissible = true) (i : Nat) : romWord c i < c.field.order := by
  obtain ⟨-, -, hrc, -⟩ := Config.admissible_values hc
  unfold romWord romRead
  cases h : c.rc[i]? with
  | none => exact Config.order_pos hc
  | some x => exact hrc x (List.mem_of_getElem? h)

theorem roundOf_canonical {c : Config} (hc : c.admissible = true) (d : Duplex) (rc : Elt)
    (hd : d.canonical c.field = true) (hrc : rc < c.field.order) : (roundOf c d rc).canonical c.field = true := by
  obtain ⟨-, hshaped, -⟩ := Config.admissible_values hc
  unfold roundOf
  split
  · exact ref3_canonical c.field hshaped d rc hd hrc
  · exact withheldRound_canonical c.field _ d rc hd

theorem ksLayoutOf_canonical {c : Config} {k0 k1 nonce iv : Elt} (h0 : k0 < c.field.order)
    (h1 : k1 < c.field.order) (hn : nonce < c.field.order) (hiv : iv < c.field.order) :
    (ksLayoutOf c k0 k1 nonce iv).canonical c.field = true := by
  have hpos : 0 < c.field.order := Nat.zero_lt_of_lt h0
  unfold ksLayoutOf
  split
  · exact (Duplex.canonical_iff _ _).mpr ⟨c.field.add_lt_order _ _ hn hiv, h0, h1⟩
  · exact (Duplex.canonical_iff _ _).mpr ⟨Nat.mod_lt _ hpos, Nat.mod_lt _ hpos, Nat.mod_lt _ hpos⟩

theorem refillOf_canonical {c : Config} (hc : c.admissible = true) (d : Duplex) (hd : d.canonical c.field = true) :
    (refillOf c d).canonical c.field = true := by
  obtain ⟨-, -, -, hrefill⟩ := Config.admissible_values hc
  unfold refillOf
  split
  · exact hd
  · next v hv => exact Duplex.canonical_setSlot _ hd (by simpa [hv, Refill.canonical, FieldSpec.canonical] using hrefill)

theorem maskBlock_lt_order (c : Config) (mode : Mode) {x mask : Elt} (hx : x < c.field.order)
    (hm : mask < c.field.order) : maskBlock c mode x mask < c.field.order := by
  cases mode with
  | encrypt => exact c.field.add_lt_order x mask hx hm
  | decrypt => exact c.field.sub_lt_order x mask hx hm

end Sys2Proof.Machine
end

section
/-! The invariant of reachable states (R27, R35): reset makes it hold and every step keeps it, part by part, over the
inversions of the host operations and of the turns of the sequencer. -/

namespace Sys2Proof.Machine

/-! ## Canonical representatives (R81) -/

/-- No host operation stores an element that is not canonical. -/
theorem HostEffect.canonical {i : Instr} {s t : State} (h : HostEffect i s t) (ho : 0 < s.cfg.field.order)
    (hs : s.Canonical) : t.Canonical := by
  cases h with
  | nothing | refused | refusedRead | reply | pop | len | rcaddr => exact { hs with }
  | k0 _ v _ hv => exact { hs with k0 := hv }
  | k1 _ v _ hv => exact { hs with k1 := hv }
  | nonce _ v _ hv => exact { hs with nonce := hv }
  | iv _ v _ hv => exact { hs with iv := hv }
  | tagin _ v _ hv => exact { hs with tagin := hv }
  | push _ v _ hv hm =>
    exact { hs with
      bufForm := Memory.wf_write _ _ _ hs.bufForm
      bufCells := Memory.within_write _ _ _ _ _ hs.bufCells hm hv }
  | start => exact { hs with duplex := ksLayoutOf_canonical hs.k0 hs.k1 hs.nonce hs.iv }
  | clear =>
    have hbuf : s.clear.buf = [] := Memory.zeroBelow_within _ _ _ hs.bufCells
    exact ⟨ho, ho, ho, hs.iv, ho, ho, Duplex.canonical_zero _ ho, by rw [hbuf]; rfl, by rw [hbuf]; rfl⟩

/-- No turn of the sequencer computes an element that is not canonical. -/
theorem TurnEffect.canonical {s t : State} (h : TurnEffect s t) (hc : s.cfg.admissible = true) (hs : s.Canonical) :
    t.Canonical := by
  have ho := Config.order_pos hc
  have hzero := Duplex.canonical_zero s.cfg.field ho
  cases h with
  | nothing | ksExit => exact { hs with }
  | round i => exact { hs with duplex := roundOf_canonical hc _ _ hs.duplex (romWord_lt_order hc i) }
  | rollCommit m _ hlt hm =>
    have hblock := maskBlock_lt_order s.cfg s.mode (Memory.read_lt _ _ _ s.blk hs.bufCells ho)
      (Duplex.slot_lt_order hs.duplex hm)
    exact { hs with
      duplex := refillOf_canonical hc _ hs.duplex
      bufForm := Memory.wf_write _ _ _ hs.bufForm
      bufCells := Memory.within_write _ _ _ _ _ hs.bufCells hlt hblock }
  | finEnc m _ _ hm =>
    exact { hs with k0 := ho, k1 := ho, duplex := hzero, tagout := Duplex.slot_lt_order hs.duplex hm }
  | finDecOk => exact { hs with k0 := ho, k1 := ho, duplex := hzero }
  | finDecFail =>
    have hbuf : s.zeroBuf.buf = [] := Memory.zeroBelow_within _ _ _ hs.bufCells
    exact { hs with
      k0 := ho, k1 := ho, duplex := hzero
      bufForm := hbuf ▸ rfl
      bufCells := hbuf ▸ rfl }

/-! ## The bounds of the counters (R21, R22, R27) -/

theorem HostEffect.bounded {i : Instr} {s t : State} (h : HostEffect i s t) (hs : s.Bounded) : t.Bounded := by
  cases h with
  | nothing | refused | refusedRead | reply | k0 | k1 | nonce | iv | tagin | rcaddr => exact { hs with }
  | pop _ _ hlt => exact { hs with rdp := hlt }
  | len _ v hp => exact { hs with blkRoll := by simp [hp], blkFin := by simp [hp] }
  | push _ v _ _ hm => exact { hs with cnt := hm, rdp := hs.rdp.trans (Nat.le_succ _) }
  | start => constructor <;> simp [hs.cnt, hs.rdp, Phase.busy]
  | clear => constructor <;> simp

theorem TurnEffect.bounded {s t : State} (h : TurnEffect s t) (hs : s.Bounded) : t.Bounded := by
  cases h with
  | nothing => exact hs
  | round i hb hks hsmall =>
    exact { hs with
      rndIdle := by simp [hb]
      rndKs := hks
      rndRoll := fun hp => hsmall (by simp_all)
      rndFin := fun hp => hsmall (by simp_all) }
  | ksExit hp =>
    have hblk := hs.blkKs hp
    exact { hs with
      rndIdle := fun _ => rfl
      rndKs := fun _ => Nat.zero_le _
      rndRoll := fun _ => Nat.zero_le _
      rndFin := fun _ => Nat.zero_le _
      blkKs := fun _ => hblk
      blkRoll := by
        simp only [hblk]
        split <;> simp
        omega
      blkFin := by
        simp only [hblk]
        split <;> simp
        omega }
  | rollCommit m hp =>
    have hblk := hs.blkRoll hp
    exact { hs with
      rndIdle := fun _ => rfl
      rndKs := fun _ => Nat.zero_le _
      rndRoll := fun _ => Nat.zero_le _
      rndFin := fun _ => Nat.zero_le _
      blkKs := by split <;> simp
      blkRoll := by
        simp only
        split <;> simp
        omega
      blkFin := by
        simp only
        split <;> simp
        omega }
  | finEnc | finDecOk | finDecFail => constructor <;> simp [hs.cnt, hs.rdp]

/-! ## A build with `CFG_OK` true (R35) -/

/-- Raising an exception other than `E_CFG` and `E_AUTH` leaves bits 0 and 1 of `ERR` as they were (R210). -/
theorem State.raise_low_bits (s : State) (e : Exc) (h0 : e ≠ .cfg) (h1 : e ≠ .auth) :
    (s.raise e).err.getLsbD Exc.cfg.code = s.err.getLsbD Exc.cfg.code ∧
      (s.raise e).err.getLsbD Exc.auth.code = s.err.getLsbD Exc.auth.code := by
  have hmask : e.mask.getLsbD Exc.cfg.code = false ∧ e.mask.getLsbD Exc.auth.code = false := by
    revert h0 h1
    cases e <;> decide
  simp [hmask]

theorem State.Live.raise {s : State} (hs : s.Live) (e : Exc) (h0 : e ≠ .cfg) (h1 : e ≠ .auth) : (s.raise e).Live := by
  obtain ⟨hcfg, hauth⟩ := s.raise_low_bits e h0 h1
  exact { hs with
    noCfgError := hcfg.trans hs.noCfgError
    failed := fun hp => by rw [hauth]; exact hs.failed hp
    authError := fun h => hs.authError (hauth ▸ h) }

theorem State.Live.no_authError {s : State} (hs : s.Live) (hp : s.phase ≠ .fail) :
    s.err.getLsbD Exc.auth.code = false :=
  Bool.eq_false_iff.mpr fun h => hp (hs.authError h)

theorem State.Live.no_tag {s : State} (hs : s.Live) (hp : s.phase ≠ .done) : s.tagv = false :=
  Bool.eq_false_iff.mpr fun h => hp (hs.tagValid h).1

theorem State.Live.not_authentic {s : State} (hs : s.Live) (hp : s.phase ≠ .done) : s.authOk = false :=
  Bool.eq_false_iff.mpr fun h => hp (hs.authentic.mp h).1

theorem Phase.ne_of_busy {p : Phase} (h : p.busy = true) : p ≠ .fatal ∧ p ≠ .idle ∧ p ≠ .done ∧ p ≠ .fail := by
  cases p <;> simp_all [Phase.busy]

/-- The operands an accepted start command has found (R182, R183). -/
theorem State.operands_of_valid {s : State} {m : Mode} (h : s.operandsValid m = true) :
    s.k0v = true ∧ s.k1v = true ∧ s.nv = true ∧ (m = .decrypt → s.tv = true) := by
  cases m <;> simp_all [State.operandsValid]

/-- A host operation keeps what holds in every reachable state of a good build. -/
theorem HostEffect.live {i : Instr} {s t : State} (h : HostEffect i s t) (hs : s.Live) : t.Live := by
  cases h with
  | nothing | reply | iv | rcaddr => exact { hs with }
  | refused _ _ e _ _ h0 h1 => exact hs.raise e h0 h1
  | refusedRead _ _ e _ _ h0 h1 => exact { hs.raise e h0 h1 with }
  | pop _ hp => exact { hs with idle := by simp [hp], popsAfterDone := by simp [hp] }
  | k0 _ v hp | k1 _ v hp | len _ v hp =>
    exact { hs with
      busyOperands := by simp [hp, Phase.busy]
      ended := by simp [hp] }
  | nonce _ v hp => exact { hs with busyOperands := by simp [hp, Phase.busy], noNonce := by simp }
  | tagin _ v hp => exact { hs with busyTag := by simp [hp, Phase.busy], noTagin := by simp }
  | push _ v hp =>
    exact { hs with
      busyOperands := by simp [hp, Phase.busy]
      ended := by simp [hp]
      failed := by simp [hp] }
  | start _ _ m _ hp ho hl =>
    obtain ⟨hk0, hk1, hnv, htv⟩ := State.operands_of_valid ho
    obtain ⟨-, -, htagv, hauthOk, -, hrdp⟩ := hs.idle hp
    exact { hs with
      notFatal := by simp
      busyOperands := fun _ => ⟨hk0, hk1, hnv, hl.symm⟩
      busyTag := fun _ => htv
      idle := by simp
      ended := by simp
      failed := by simp
      tagValid := by simp [htagv]
      authentic := by simp [hauthOk]
      authError := by simp [hs.no_authError (by simp [hp])]
      popsAfterDone := fun _ => hrdp }
  | clear =>
    have hbit : s.err[0] = false := hs.noCfgError
    constructor <;> simp [hbit, Exc.code, Phase.busy]

/-- A micro-step that only moves the session on keeps what holds in every reachable state of a good build. -/
theorem State.Live.session_continues {s t : State} (hs : s.Live) (hb : s.phase.busy = true) (hb' : t.phase.busy = true)
    (ht : t = { s with duplex := t.duplex, buf := t.buf, blk := t.blk, rnd := t.rnd, phase := t.phase }) : t.Live := by
  obtain ⟨hfatal, hidle, hdone, hfail⟩ := Phase.ne_of_busy hb
  obtain ⟨hfatal', hidle', hdone', hfail'⟩ := Phase.ne_of_busy hb'
  have htagv := hs.no_tag hdone
  have hauthOk := hs.not_authentic hdone
  rw [ht]
  exact { hs with
    notFatal := hfatal'
    busyOperands := fun _ => hs.busyOperands hb
    busyTag := fun _ => hs.busyTag hb
    idle := fun hp => absurd hp hidle'
    ended := fun hp => (hp.elim hdone' hfail').elim
    failed := fun hp => absurd hp hfail'
    tagValid := by simp [htagv]
    authentic := by simp [hauthOk, hdone']
    authError := by simp [hs.no_authError hfail]
    popsAfterDone := fun _ => hs.popsAfterDone hdone }

/-- A turn of the sequencer keeps what holds in every reachable state of a good build. -/
theorem TurnEffect.live {s t : State} (h : TurnEffect s t)
    (hcells : s.buf.within s.cfg.maxBlocks s.cfg.field.order = true) (hbound : s.Bounded) (hs : s.Live) : t.Live := by
  cases h with
  | nothing => exact hs
  | round i hb => exact hs.session_continues hb hb rfl
  | ksExit hp => exact hs.session_continues (by simp [hp, Phase.busy]) (by simp only; split <;> rfl) rfl
  | rollCommit m hp => exact hs.session_continues (by simp [hp, Phase.busy]) (by simp only; split <;> rfl) rfl
  | finEnc m hp hmode =>
    obtain ⟨-, -, -, hlen⟩ := hs.busyOperands (by simp [hp, Phase.busy])
    exact { hs with
      notFatal := by simp
      busyOperands := by simp [Phase.busy]
      busyTag := by simp [Phase.busy]
      idle := by simp
      ended := fun _ => ⟨rfl, rfl, rfl, rfl, rfl, hbound.blkFin hp, hlen⟩
      failed := by simp
      tagValid := fun _ => ⟨rfl, hmode⟩
      noTag := by simp
      authentic := by simp [hs.not_authentic (by simp [hp]), hmode]
      authError := by simp [hs.no_authError (by simp [hp])]
      popsAfterDone := by simp }
  | finDecOk hp hmode =>
    obtain ⟨-, -, -, hlen⟩ := hs.busyOperands (by simp [hp, Phase.busy])
    exact { hs with
      notFatal := by simp
      busyOperands := by simp [Phase.busy]
      busyTag := by simp [Phase.busy]
      idle := by simp
      ended := fun _ => ⟨rfl, rfl, rfl, rfl, rfl, hbound.blkFin hp, hlen⟩
      failed := by simp
      tagValid := by simp [hs.no_tag (by simp [hp])]
      authentic := by simp [hmode]
      authError := by simp [hs.no_authError (by simp [hp])]
      popsAfterDone := by simp }
  | finDecFail hp hmode =>
    obtain ⟨-, -, -, hlen⟩ := hs.busyOperands (by simp [hp, Phase.busy])
    have hauthOk := hs.not_authentic (by simp [hp])
    have hbuf : s.zeroBuf.buf = [] := Memory.zeroBelow_within _ _ _ hcells
    exact { hs with
      notFatal := by simp
      noCfgError := by simpa [Exc.code, Exc.mask] using hs.noCfgError
      busyOperands := by simp [Phase.busy]
      busyTag := by simp [Phase.busy]
      idle := by simp
      ended := fun _ => ⟨rfl, rfl, rfl, rfl, rfl, hbound.blkFin hp, hlen⟩
      failed := fun _ => ⟨hmode, by simp [Exc.code, Exc.mask], hauthOk, fun i => congrArg (Memory.read · i) hbuf⟩
      tagValid := by simp [hs.no_tag (by simp [hp])]
      authentic := by simp [hauthOk]
      authError := by simp
      popsAfterDone := fun _ => hs.popsAfterDone (by simp [hp]) }

/-! ## A build with `CFG_OK` false (R143) -/

theorem State.Dead.phase_eq {s : State} (hs : s.Dead) (hc : s.cfg.cfgOk = false) : s.phase = .fatal := by
  have hs' : { s with buf := [], inputs := [], rdata := 0 } = State.resetOf s.cfg [] := hs
  have hp := congrArg State.phase hs'
  simpa [hc] using hp

theorem HostEffect.dead {i : Instr} {s t : State} (h : HostEffect i s t) (hp : s.phase = .fatal) (hs : s.Dead) :
    t.Dead := by
  cases h with
  | nothing | reply => exact hs
  | _ => simp_all -- the other effects are of other phases

theorem TurnEffect.dead {s t : State} (h : TurnEffect s t) (hp : s.phase = .fatal) (hs : s.Dead) : t.Dead := by
  cases h with
  | nothing => exact hs
  | round i hb => simp [hp, Phase.busy] at hb
  | _ => simp_all -- the other micro-steps are of other phases

/-! ## The invariant -/

theorem State.Inv.of_hostEffect {i : Instr} {s t : State} (hs : s.Inv) (h : HostEffect i s t) : t.Inv := by
  obtain ⟨hcfg, -⟩ := h.sameBuildAndQueue
  exact {
    build := hcfg ▸ hs.build
    canonical := h.canonical (Config.order_pos hs.build) hs.canonical
    bounded := h.bounded hs.bounded
    live := fun hok => h.live (hs.live (hcfg ▸ hok))
    dead := fun hbad =>
      have hdead := hs.dead (hcfg ▸ hbad)
      h.dead (hdead.phase_eq (hcfg ▸ hbad)) hdead }

theorem State.Inv.of_turn {s t : State} (hs : s.Inv) (h : microStep s = .next t) : t.Inv := by
  obtain ⟨hcfg, -⟩ := microStep_sameBuildAndQueue h
  have heff := microStep_effect h
  exact {
    build := hcfg ▸ hs.build
    canonical := heff.canonical hs.build hs.canonical
    bounded := heff.bounded hs.bounded
    live := fun hok => heff.live hs.canonical.bufCells hs.bounded (hs.live (hcfg ▸ hok))
    dead := fun hbad =>
      have hdead := hs.dead (hcfg ▸ hbad)
      heff.dead (hdead.phase_eq (hcfg ▸ hbad)) hdead }

/-- The invariant says nothing of the queue and of the latest read (logs 5, 7). -/
theorem State.Inv.withQueueAndReply {s : State} (hs : s.Inv) (q : List Event) (v : Nat) :
    State.Inv { s with inputs := q, rdata := v } :=
  { build := hs.build
    canonical := { hs.canonical with }
    bounded := { hs.bounded with }
    live := fun hok => { hs.live hok with }
    dead := hs.dead }

/-- The state after reset has the invariant, whatever `BUF` holds (R241, R242). -/
theorem State.resetOf_inv (c : Config) (noise : List (Nat × Elt)) (hc : c.admissible = true) :
    (State.resetOf c noise).Inv := by
  have ho := Config.order_pos hc
  obtain ⟨hone, -⟩ := Config.admissible_values hc
  exact {
    build := hc
    canonical :=
      ⟨ho, ho, ho, hone, ho, ho, Duplex.canonical_zero _ ho, Memory.wf_ofNoise _ _ _, Memory.within_ofNoise _ _ _⟩
    bounded := by
      constructor <;> simp
      all_goals split <;> simp
    live := fun hok => by
      replace hok : c.cfgOk = true := hok
      constructor <;> simp [hok, Phase.busy]
    dead := fun hbad => rfl }

/-- Settles O30; `State.reset` is the reset state of the admissible build T101. -/
theorem resetMeetsInvariant : Obligations.ResetMeetsInvariant :=
  ⟨State.resetOf_inv, State.resetOf_inv Config.t101 [] (by decide)⟩

/-- Settles O29, by what a step can be: an operation, a turn of the sequencer, or the reset event. -/
theorem stepKeepsInvariant : Obligations.StepKeepsInvariant := by
  intro s t hs h
  rcases step_cases s t h with ⟨-, rest, i, -, -, hop⟩ | ⟨rest, -, hturn⟩ | ⟨noise, rest, -, rfl⟩
  · exact (hs.withQueueAndReply rest s.rdata).of_hostEffect (exec_effect i _ t hop)
  · exact (hs.withQueueAndReply rest s.rdata).of_turn hturn
  · exact (State.resetOf_inv s.cfg noise hs.build).withQueueAndReply rest s.rdata

end Sys2Proof.Machine
end

section
/-! The writes of element registers (R140, R147, R150), and what changes `IV`, `CNT` and the bits of `ERR`. -/

open Sys2Proof.Claims

namespace Sys2Proof

/-! ## The write a transaction is (R61, R62) -/

theorem isRead_decodeRead (a : Addr) : Machine.isRead (decodeRead a) = true := by
  unfold decodeRead
  split <;> rfl

theorem encode_decodeCommand (data : Nat) : encode (decodeCommand data) = .wr 0x00 data := by
  unfold decodeCommand
  split <;> simp only [encode, Transaction.wr] <;> congr 1 <;> omega

/-- Encoding a decoded write gives its address and its data back. -/
theorem encode_decodeWrite (a : Addr) (data : Nat) : encode (decodeWrite a data) = .wr a data := by
  unfold decodeWrite
  split
  case h_1 ha =>
    exact (encode_decodeCommand data).trans (congrArg (Transaction.wr · data) (BitVec.eq_of_toNat_eq ha.symm))
  case h_27 => rfl
  all_goals
    next ha => exact congrArg (Transaction.wr · data) (BitVec.eq_of_toNat_eq (by rw [ha]; rfl))

/-- A transaction that decodes to a write is the encoding of that write. -/
theorem eq_encode_of_decode {dw : Nat} {tr : Transaction} {i : Instr} (h : decode dw tr = .ok i)
    (hr : Machine.isRead i = false) : tr = encode i := by
  obtain ⟨we, a, data⟩ := tr
  unfold decode at h
  split at h
  · cases we with
    | true =>
      obtain rfl : decodeWrite a data = i := by simpa using h
      exact (encode_decodeWrite a data).symm
    | false =>
      obtain rfl : decodeRead a = i := by simpa using h
      simp [isRead_decodeRead] at hr
  · cases h

end Sys2Proof

namespace Sys2Proof.Machine

/-! ## The element registers that `IDLE` alone admits (R140) -/

/-- The tests of a write to an element register: `FATAL`, phase, range, then the register's own. -/
theorem hostWrite_element {r : Reg} (hr : r ∈ ([.k0, .k1, .nonce, .iv, .tagin, .din] : List Reg)) (v : Nat)
    (commit : State → Result) (s : State) :
    (s.phase = .fatal → hostWrite (some r) v commit s = .next s) ∧
    (s.phase ≠ .idle → s.phase ≠ .fatal → hostWrite (some r) v commit s = .next (raised 4 s)) ∧
    (s.phase = .idle → s.cfg.field.order ≤ v → hostWrite (some r) v commit s = .next (raised 6 s)) ∧
    (∀ e, s.phase = .idle → v < s.cfg.field.order → r.writeTest s = some e →
      hostWrite (some r) v commit s = .next (s.raise e)) ∧
    (s.phase = .idle → v < s.cfg.field.order → r.writeTest s = none →
      hostWrite (some r) v commit s = commit s) := by
  have hreg : r.writable = true ∧ r.kind = .elt ∧ ∀ p, r.writePhase p = decide (p = .idle) := by
    fin_cases hr <;> exact ⟨rfl, rfl, fun _ => rfl⟩
  obtain ⟨hw, hk, hp⟩ := hreg
  have hrange : r.inRange s.cfg v = decide (v < s.cfg.field.order) := by simp [Reg.inRange, hk, FieldSpec.canonical]
  refine ⟨?_, ?_, ?_, ?_, ?_⟩
  · intro hfatal
    simp [hostWrite, hfatal]
  · intro hidle hfatal
    simp [hostWrite, hfatal, hw, hp, hidle, refuseWrite, raised, State.raise, Exc.mask, Exc.code]
  · intro hidle hv
    simp [hostWrite, hw, hp, hidle, hrange, hv, refuseWrite, raised, State.raise, Exc.mask, Exc.code]
  · intro e hidle hv ht
    simp [hostWrite, hw, hp, hidle, hrange, hv, ht, refuseWrite]
  · intro hidle hv ht
    simp [hostWrite, hw, hp, hidle, hrange, hv, ht]

/-- The plain store of an element register (R144 to R148). -/
theorem elementWrite_of_plainWrite {r : Reg} (hr : r ∈ ([.k0, .k1, .nonce, .iv, .tagin] : List Reg)) (i : Nat → Instr)
    (store : Nat → State → State) (hexec : ∀ v s, exec (i v) s = plainWrite r v (store v) s) :
    elementWrite i store := by
  intro s v
  have hr' : r ∈ ([.k0, .k1, .nonce, .iv, .tagin, .din] : List Reg) := by fin_cases hr <;> decide
  have htest : r.writeTest s = none := by fin_cases hr <;> rfl
  obtain ⟨hfatal, hphase, hrange, -, hstore⟩ := hostWrite_element hr' v (fun s => .next (store v s)) s
  rw [hexec, plainWrite]
  exact ⟨fun hp hv => hstore hp hv htest, hrange, hphase, hfatal⟩

/-! ## `IV` (R13, R147) -/

theorem HostEffect.iv_cases {i : Instr} {s t : State} (h : HostEffect i s t) :
    t.iv = s.iv ∨ ∃ v, i = .wrIv v ∧ s.phase = .idle ∧ v < s.cfg.field.order ∧ t.iv = v := by
  cases h with
  | iv _ v hp hv => exact .inr ⟨v, rfl, hp, hv, rfl⟩
  | _ => exact .inl rfl

theorem TurnEffect.iv_eq {s t : State} (h : TurnEffect s t) : t.iv = s.iv := by
  cases h <;> rfl

/-- Settles O10; an operation that changes `IV` is a `WR IV`, whose encoding the transaction is. -/
theorem ivChangesOnlyByWriteOrReset : Obligations.IvChangesOnlyByWriteOrReset := by
  refine ⟨elementWrite_of_plainWrite (r := .iv) (by decide) _ _ fun _ _ => rfl, fun s t h => ?_⟩
  rcases step_cases s t h with ⟨tr, rest, i, hin, hdec, hop⟩ | ⟨rest, hin, hturn⟩ | ⟨noise, rest, hin, rfl⟩
  · refine ⟨fun noise q hq => by simp [hin] at hq, ?_⟩
    rcases (exec_effect i _ t hop).iv_cases with hiv | ⟨v, rfl, hp, hv, hiv⟩
    · exact .inl hiv
    · obtain rfl := eq_encode_of_decode hdec rfl
      exact .inr (.inl ⟨v, rest, hin, hp, hv, hiv⟩)
  · exact ⟨fun noise q hq => by simp [hq] at hin, .inl (microStep_effect hturn).iv_eq⟩
  · exact ⟨fun _ _ _ => rfl, .inr (.inr ⟨noise, rest, hin⟩)⟩

/-! ## `DIN` and `CNT` (R19, R150) -/

/-- A push where `BUF` has room (R150). -/
theorem pushElement_next {s : State} (v : Nat) (h : s.cnt < s.cfg.maxBlocks) :
    pushElement v s = .next { s with buf := s.buf.write s.cnt v, cnt := s.cnt + 1 } := by
  simp [pushElement, (bufWrite_eq_some s _ s.cnt v).mpr ⟨h, rfl⟩]

theorem HostEffect.cnt_cases {i : Instr} {s t : State} (h : HostEffect i s t) :
    t.cnt = s.cnt ∨
    (∃ v, i = .wrDin v ∧ s.phase = .idle ∧ v < s.cfg.field.order ∧ s.cnt ≠ s.cfg.maxBlocks ∧ t.cnt = s.cnt + 1) ∨
    (i = .cmdClr 0 ∧ (s.phase = .idle ∨ s.phase = .done ∨ s.phase = .fail) ∧ t.cnt = 0) := by
  cases h with
  | push _ v hp hv hm => exact .inr (.inl ⟨v, rfl, hp, hv, hm.ne, rfl⟩)
  | clear _ hp => exact .inr (.inr ⟨rfl, hp, rfl⟩)
  | _ => exact .inl rfl

theorem TurnEffect.cnt_eq {s t : State} (h : TurnEffect s t) : t.cnt = s.cnt := by
  cases h <;> rfl

/-- Settles O12: the tests of the push in order, then what changes `CNT` in a step. -/
theorem pushAppendsElement : Obligations.PushAppendsElement := by
  refine ⟨fun s v hwf => ?_, fun s t h => ?_⟩
  · obtain ⟨hfatal, hphase, hrange, hfull, hpush⟩ := hostWrite_element (r := .din) (by decide) v (pushElement v) s
    refine ⟨fun hp hv hm => ?_, fun hp hv hm => hfull .buf hp hv (if_pos hm), hrange, hphase, hfatal⟩
    refine ⟨_, (hpush hp hv (if_neg hm.ne)).trans (pushElement_next v hm), rfl, Memory.wf_write _ _ _ hwf, fun j => ?_⟩
    split
    · next hj => exact hj ▸ Memory.read_write_same _ _ _ hwf
    · next hj => exact Memory.read_write_other _ _ _ _ hj
  · rcases step_cases s t h with ⟨tr, rest, i, hin, hdec, hop⟩ | ⟨rest, -, hturn⟩ | ⟨noise, rest, hin, rfl⟩
    · rcases (exec_effect i _ t hop).cnt_cases with hcnt | ⟨v, rfl, hpush⟩ | ⟨rfl, hclear⟩
      · exact .inl hcnt
      · exact .inr (.inl ⟨v, ⟨tr, rest, hin, hdec⟩, hpush⟩)
      · exact .inr (.inr (.inl ⟨⟨tr, rest, hin, hdec⟩, hclear⟩))
    · exact .inl (microStep_effect hturn).cnt_eq
    · exact .inr (.inr (.inr ⟨noise, rest, hin, rfl⟩))

/-! ## `ERR` (R28) -/

/-- Bit 0 alone survives `CLR`; nothing else clears a bit. -/
theorem HostEffect.err_sticky {i : Instr} {s t : State} (h : HostEffect i s t) (b : Nat)
    (hb : s.err.getLsbD b = true) :
    t.err.getLsbD b = true ∨ (1 ≤ b ∧ i = .cmdClr 0 ∧ s.phase.settled = true) := by
  cases h with
  | refused | refusedRead => exact .inl (by simp [hb])
  | clear _ hp =>
    cases b with
    | zero => exact .inl (by simpa using hb)
    | succ b => exact .inr ⟨by omega, rfl, by rcases hp with hp | hp | hp <;> simp [hp, Phase.settled]⟩
  | _ => exact .inl hb

theorem TurnEffect.err_sticky {s t : State} (h : TurnEffect s t) (b : Nat) (hb : s.err.getLsbD b = true) :
    t.err.getLsbD b = true := by
  cases h with
  | finDecFail => simp [hb]
  | _ => exact hb

/-- Settles O38, by what a step can be: an operation, a turn of the sequencer, or the reset event. -/
theorem errBitsAreSticky : Obligations.ErrBitsAreSticky := by
  intro s t b h hb
  rcases step_cases s t h with ⟨tr, rest, i, hin, hdec, hop⟩ | ⟨rest, -, hturn⟩ | ⟨noise, rest, hin, -⟩
  · rcases (exec_effect i _ t hop).err_sticky b hb with herr | ⟨h1, rfl, hp⟩
    · exact .inl herr
    · exact .inr (.inr ⟨h1, ⟨tr, rest, hin, hdec⟩, hp⟩)
  · exact .inl ((microStep_effect hturn).err_sticky b hb)
  · exact .inr (.inl ⟨noise, rest, hin⟩)

end Sys2Proof.Machine
end

section
/-! The reads of `STATUS`, `ERR` and the `CFG_*` registers, which answer in every phase (R143, R153, R154, R165). -/

open Sys2Proof.Claims

namespace Sys2Proof

/-! ## Packed words -/

/-- A field above the low `n` bits is added by OR (R26, R31). -/
theorem or_shiftLeft_eq_add {n a : Nat} (b : Nat) (h : a < 2 ^ n) : a ||| b <<< n = a + 2 ^ n * b := by
  rw [Nat.or_comm, ← Nat.shiftLeft_add_eq_or_of_lt h, Nat.shiftLeft_eq]
  ring

theorem add_toNat_shift_lt {n a : Nat} (b : Bool) (h : a < 2 ^ n) : a + 2 ^ n * b.toNat < 2 ^ (n + 1) := by
  cases b <;> simp [pow_succ] <;> omega

/-- `FW` is `ceil(log2 p)` in a prime field (R6). -/
theorem elementBits_eq_fw (f : FieldSpec) : elementBits f = f.fw := by
  cases f with
  | binary n poly => rfl
  | prime p =>
    simp only [elementBits, FieldSpec.fw]
    split
    · next h => exact Nat.clog_of_right_le_one h 2
    · next h =>
      have hhi : p - 1 < 2 ^ (Nat.log2 (p - 1) + 1) := Nat.lt_log2_self
      have hlo : 2 ^ Nat.log2 (p - 1) ≤ p - 1 := Nat.log2_self_le (by omega)
      exact le_antisymm ((Nat.clog_le_iff_le_pow (by decide)).mpr (by omega))
        ((Nat.lt_clog_iff_pow_lt (by decide)).mpr (by omega))

/-- The values of an admissible build fit the fields of the packed `CFG_*` words (R31). -/
theorem Config.admissible_sizes {c : Config} (h : c.admissible = true) :
    c.w < 2 ^ 8 ∧ c.wBig < 2 ^ 8 ∧ c.wSmall < 2 ^ 8 ∧ c.maskSlot < 2 ^ 8 ∧ c.fw < 2 ^ 16 := by
  simp only [Config.admissible, Bool.and_eq_true, decide_eq_true_eq] at h
  obtain ⟨-, hw, hbig, hsmall, hslot, hfw, -⟩ := h
  exact ⟨hw, hbig, hsmall, hslot, hfw⟩

theorem Config.fieldWord_eq_or {c : Config} (hc : c.admissible = true) :
    c.fieldWord = familyBit c.field ||| elementBits c.field <<< 16 := by
  obtain ⟨-, -, -, -, hfw⟩ := Config.admissible_sizes hc
  have hbit : familyBit c.field < 2 ^ 16 := by cases c.field <;> simp [familyBit]
  rw [or_shiftLeft_eq_add _ hbit, elementBits_eq_fw, Config.fieldWord, Nat.mod_eq_of_lt hfw, Config.fw]
  cases c.field <;> rfl

theorem Config.widthWord_eq_or {c : Config} (hc : c.admissible = true) :
    c.widthWord = c.w ||| c.wBig <<< 8 ||| c.wSmall <<< 16 := by
  obtain ⟨hw, hbig, hsmall, -, -⟩ := Config.admissible_sizes hc
  rw [or_shiftLeft_eq_add _ hw, or_shiftLeft_eq_add _ (n := 16) (by omega), Config.widthWord,
    Nat.mod_eq_of_lt hw, Nat.mod_eq_of_lt hbig, Nat.mod_eq_of_lt hsmall]

theorem Config.slotWord_eq_or {c : Config} (hc : c.admissible = true) :
    c.slotWord = c.maskSlot ||| refillBit c.refill <<< 8 := by
  obtain ⟨-, -, -, hslot, -⟩ := Config.admissible_sizes hc
  rw [or_shiftLeft_eq_add _ hslot, Config.slotWord, Nat.mod_eq_of_lt hslot]
  cases c.refill <;> rfl

theorem Config.refillWord_eq (c : Config) : c.refillWord = refillValue c.refill := by
  unfold Config.refillWord
  cases c.refill <;> rfl

end Sys2Proof

namespace Sys2Proof.Machine

/-- `STATUS`, `ERR` and the `CFG_*` registers answer in every phase (R140, R143). -/
theorem plainRead_always {r : Reg} (hr : r.alwaysReadable = true) (v : State → Nat) (s : State) :
    plainRead r v s = .next (answered (v s) s) := by
  have hreg : r.readable = true ∧ r.readPhase s.phase = true ∧ r.readTest s = none := by
    cases r <;> simp [Reg.alwaysReadable] at hr <;> exact ⟨rfl, rfl, rfl⟩
  obtain ⟨hread, hphase, htest⟩ := hreg
  simp [plainRead, hostRead, hiddenInFatal, hr, hread, hphase, htest, answered, State.reply]

/-! ## `STATUS` and `ERR` (R26, R28) -/

theorem phaseCode_eq (p : Phase) : phaseCode p = p.code := by
  cases p <;> rfl

theorem decide_busy_eq (p : Phase) : decide (p = .ks ∨ p = .roll ∨ p = .fin) = p.busy := by
  cases p <;> rfl

theorem decide_decrypt_eq (m : Mode) : decide (m = .decrypt) = m.bit := by
  cases m <;> rfl

/-- The nine fields of `STATUS` are disjoint: their OR is their sum, and it has 11 bits (R26). -/
theorem statusOf_eq (s : State) : statusOf s = s.statusWord ∧ s.statusWord < 2 ^ 11 := by
  have h3 : s.phase.code < 2 ^ 3 := by cases s.phase <;> decide
  have h4 := add_toNat_shift_lt s.phase.busy h3
  have h5 := add_toNat_shift_lt s.mode.bit h4
  have h6 := add_toNat_shift_lt s.authOk h5
  have h7 := add_toNat_shift_lt s.k0v h6
  have h8 := add_toNat_shift_lt s.k1v h7
  have h9 := add_toNat_shift_lt s.nv h8
  have h10 := add_toNat_shift_lt s.tv h9
  have h11 := add_toNat_shift_lt s.tagv h10
  refine ⟨?_, h11⟩
  rw [statusOf, phaseCode_eq, decide_busy_eq, decide_decrypt_eq, or_shiftLeft_eq_add _ h3, or_shiftLeft_eq_add _ h4,
    or_shiftLeft_eq_add _ h5, or_shiftLeft_eq_add _ h6, or_shiftLeft_eq_add _ h7, or_shiftLeft_eq_add _ h8,
    or_shiftLeft_eq_add _ h9, or_shiftLeft_eq_add _ h10, State.statusWord]

/-- Settles O14: both registers answer in every phase, and the words are the views of R26 and R28. -/
theorem statusAndErrReads : Obligations.StatusAndErrReads := by
  intro s
  obtain ⟨hstatus, hlt⟩ := statusOf_eq s
  refine ⟨?_, hstatus ▸ hlt, s.err.toNat, ?_, s.err.isLt, fun b => rfl⟩
  · rw [hstatus]
    exact plainRead_always (r := .status) rfl _ s
  · exact plainRead_always (r := .err) rfl _ s

/-! ## The `CFG_*` registers (R31) -/

/-- Settles O16: the registers answer in every phase, and in an admissible build the words are those of R31. -/
theorem configurationReads : Obligations.ConfigurationReads := by
  intro s hc
  refine ⟨?_, ?_, ?_, ?_, ?_, ?_, ?_, ?_, fun p hp => ?_, fun n poly hf => ?_, ?_⟩
  · rw [← Config.fieldWord_eq_or hc]
    exact plainRead_always (r := .cfgField) rfl (fun s => s.cfg.fieldWord) s
  · rw [← Config.widthWord_eq_or hc]
    exact plainRead_always (r := .cfgW) rfl (fun s => s.cfg.widthWord) s
  · exact plainRead_always (r := .cfgRbig) rfl (fun s => s.cfg.rBig) s
  · exact plainRead_always (r := .cfgRsmall) rfl (fun s => s.cfg.rSmall) s
  · exact plainRead_always (r := .cfgRcoff) rfl (fun s => s.cfg.rcOffset) s
  · exact plainRead_always (r := .cfgRcdepth) rfl (fun s => s.cfg.rcDepth) s
  · exact plainRead_always (r := .cfgMaxblk) rfl (fun s => s.cfg.maxBlocks) s
  · rw [← Config.slotWord_eq_or hc]
    exact plainRead_always (r := .cfgSlot) rfl (fun s => s.cfg.slotWord) s
  · have hmod : s.cfg.modWord = p := by simp [Config.modWord, hp]
    exact hmod ▸ plainRead_always (r := .cfgMod) rfl (fun s => s.cfg.modWord) s
  · have hmod : s.cfg.modWord = poly % 2 ^ n := by simp [Config.modWord, hf]
    refine ⟨_, plainRead_always (r := .cfgMod) rfl (fun s => s.cfg.modWord) s, fun i => ?_⟩
    simp only [hmod, Nat.testBit_mod_two_pow]
  · rw [← Config.refillWord_eq]
    exact plainRead_always (r := .cfgRefillv) rfl (fun s => s.cfg.refillWord) s

end Sys2Proof.Machine
end

section
/-! The cells of `BUF` that no push has written cannot be observed (R34, R242): two states that differ in them alone take
every action alike. -/

open Sys2Proof.Claims

namespace Sys2Proof.Machine

/-- Where both outcomes are next states, these differ in unwritten cells of `BUF` alone. -/
def Alike (r r' : Result) : Prop :=
  ∀ t t', r = .next t → r' = .next t' → sameButUnwritten t t'

theorem Alike.next {t t' : State} (h : sameButUnwritten t t') : Alike (.next t) (.next t') := by
  intro u u' hu hu'
  cases hu
  cases hu'
  exact h

/-- Of two such states the second is the first with another `BUF`. -/
theorem sameButUnwritten_iff (s s' : State) :
    sameButUnwritten s s' ↔ ∃ m, s' = { s with buf := m } ∧ ∀ i, i < s.cnt → s.buf.read i = m.read i := by
  constructor
  · rintro ⟨hrest, hread⟩
    exact ⟨s'.buf, congrArg (fun u : State => { u with buf := s'.buf }) hrest.symm, hread⟩
  · rintro ⟨m, rfl, hread⟩
    exact ⟨rfl, hread⟩

theorem phase_of_rollCommit {s : State} (h : enabledStep s = some .rollCommit) : s.phase = .roll := by
  unfold enabledStep at h
  split at h
  case h_2 hp => exact hp
  all_goals (repeat' split at h) <;> cases h

/-- A pop of a cell of `BUF` (R162). -/
theorem popElement_next {s : State} (h : s.rdp < s.cfg.maxBlocks) :
    popElement s = .next (State.reply { s with rdp := s.rdp + 1 } (s.buf.read s.rdp)) := by
  simp [popElement, (bufRead_eq_some s s.rdp _).mpr ⟨h, rfl⟩]

section
variable {s : State} {m : Memory} (hm : ∀ i, i < s.cnt → s.buf.read i = m.read i)
include hm

/-! ## The host procedures (R140, R180) -/

theorem hostWrite_alike (r : Option Reg) (v : Nat) (commit : State → Result)
    (h : Alike (commit s) (commit { s with buf := m })) :
    Alike (hostWrite r v commit s) (hostWrite r v commit { s with buf := m }) := by
  have hrefuse : ∀ e, Alike (refuseWrite e s) (refuseWrite e { s with buf := m }) := fun e => .next ⟨rfl, hm⟩
  unfold hostWrite
  dsimp only
  split
  · exact .next ⟨rfl, hm⟩
  · cases r with
    | none => exact hrefuse .addr
    | some q =>
      have htest : q.writeTest { s with buf := m } = q.writeTest s := by cases q <;> rfl
      dsimp only
      rw [htest]
      split
      · exact hrefuse .addr
      split
      · exact hrefuse .seq
      split
      · exact hrefuse .range
      cases q.writeTest s with
      | none => exact h
      | some e => exact hrefuse e

theorem hostRead_alike (r : Option Reg) (value : State → Result)
    (h : ∀ q, r = some q → q.readTest s = none → Alike (value s) (value { s with buf := m })) :
    Alike (hostRead r value s) (hostRead r value { s with buf := m }) := by
  have hrefuse : ∀ e, Alike (refuseRead e s) (refuseRead e { s with buf := m }) := fun e => .next ⟨rfl, hm⟩
  unfold hostRead
  dsimp only
  split
  · exact .next ⟨rfl, hm⟩
  · cases r with
    | none => exact hrefuse .addr
    | some q =>
      have htest : q.readTest { s with buf := m } = q.readTest s := by cases q <;> rfl
      dsimp only
      rw [htest]
      split
      · exact hrefuse .addr
      split
      · exact hrefuse .seq
      cases hq : q.readTest s with
      | none => exact h q rfl hq
      | some e => exact hrefuse e

theorem plainWrite_alike (r : Reg) (v : Nat) (store : State → State)
    (h : sameButUnwritten (store s) (store { s with buf := m })) :
    Alike (plainWrite r v store s) (plainWrite r v store { s with buf := m }) :=
  hostWrite_alike hm _ v _ (.next h)

theorem writeOfReadOnly_alike (r : Reg) (v : Nat) :
    Alike (writeOfReadOnly r v s) (writeOfReadOnly r v { s with buf := m }) :=
  hostWrite_alike hm _ v _ (.next ⟨rfl, hm⟩)

theorem plainRead_alike (r : Reg) (v : State → Nat) (h : v { s with buf := m } = v s) :
    Alike (plainRead r v s) (plainRead r v { s with buf := m }) :=
  hostRead_alike hm _ _ fun _ _ _ => .next ⟨by simp only [h, State.reply], hm⟩

theorem readOfWriteOnly_alike (r : Reg) : Alike (readOfWriteOnly r s) (readOfWriteOnly r { s with buf := m }) :=
  hostRead_alike hm _ _ fun _ _ _ => .next ⟨rfl, hm⟩

theorem command_alike (hi : Nat) (act : State → Result) (h : Alike (act s) (act { s with buf := m })) :
    Alike (command hi act s) (command hi act { s with buf := m }) := by
  unfold command
  dsimp only
  split
  · exact .next ⟨rfl, hm⟩
  split
  · exact .next ⟨rfl, hm⟩
  · exact h

/-! ## The operations -/

theorem startSession_alike (mode : Mode) : Alike (startSession mode s) (startSession mode { s with buf := m }) := by
  have hvalid : State.operandsValid { s with buf := m } mode = s.operandsValid mode := by cases mode <;> rfl
  unfold startSession
  rw [hvalid]
  dsimp only
  split
  · exact .next ⟨rfl, hm⟩
  split
  · exact .next ⟨rfl, hm⟩
  split
  · exact .next ⟨rfl, hm⟩
  · exact .next ⟨rfl, hm⟩

/-- After `CLR` no cell counts as written. -/
theorem clearSession_alike : Alike (clearSession s) (clearSession { s with buf := m }) := by
  unfold clearSession
  dsimp only
  split
  · exact .next ⟨rfl, hm⟩
  · exact .next ⟨rfl, fun i hi => absurd hi (Nat.not_lt_zero i)⟩

/-- The cell a push writes is the only one that becomes a written one. -/
theorem pushElement_alike (v : Nat) (hwf : s.buf.wf = true) (hwf' : m.wf = true) :
    Alike (pushElement v s) (pushElement v { s with buf := m }) := by
  by_cases hlt : s.cnt < s.cfg.maxBlocks
  · rw [pushElement_next v hlt, pushElement_next (s := { s with buf := m }) v hlt]
    refine .next ⟨rfl, fun i hi => ?_⟩
    by_cases hc : i = s.cnt
    · simp only [hc, Memory.read_write_same _ _ _ hwf, Memory.read_write_same _ _ _ hwf']
    · have hi' : i < s.cnt := by simp only at hi; omega
      simp only [Memory.read_write_other _ _ _ _ hc, hm i hi']
  · intro t t' ht
    simp [pushElement, bufWrite, hlt] at ht

/-- A pop reads a written cell (R162). -/
theorem popElement_alike (hlt : s.rdp < s.cnt) : Alike (popElement s) (popElement { s with buf := m }) := by
  by_cases hmax : s.rdp < s.cfg.maxBlocks
  · rw [popElement_next hmax, popElement_next (s := { s with buf := m }) hmax]
    refine .next ⟨?_, hm⟩
    simp only [State.reply, hm s.rdp hlt]
  · intro t t' ht
    simp [popElement, bufRead, hmax] at ht

theorem exec_alike (i : Instr) (hwf : s.buf.wf = true) (hwf' : m.wf = true) :
    Alike (exec i s) (exec i { s with buf := m }) := by
  cases i with
  | cmdNop hi => exact command_alike hm hi (fun s => .next s) (.next ⟨rfl, hm⟩)
  | cmdStartEnc hi => exact command_alike hm hi _ (startSession_alike hm .encrypt)
  | cmdStartDec hi => exact command_alike hm hi _ (startSession_alike hm .decrypt)
  | cmdClr hi => exact command_alike hm hi _ (clearSession_alike hm)
  | cmdReserved data => exact command_alike hm (data / 2 ^ 32) (refuseWrite .cmd) (.next ⟨rfl, hm⟩)
  | rdCmd | rdK0 | rdK1 | rdDin => exact readOfWriteOnly_alike hm _
  | wrK0 v | wrK1 v | wrNonce v | wrIv v | wrTagin v | wrLen v | wrRcaddr v =>
    dsimp only [exec, execWrK0, execWrK1, execWrNonce, execWrIv, execWrTagin, execWrLen, execWrRcaddr]
    refine plainWrite_alike hm _ v _ ?_
    exact ⟨rfl, hm⟩
  | wrDin v => exact hostWrite_alike hm (some .din) v _ (pushElement_alike hm v hwf hwf')
  | wrStatus v | wrErr v | wrCnt v | wrBlk v | wrTagout v | wrDout v | wrRcdata v | wrCfgField v | wrCfgW v
  | wrCfgRbig v | wrCfgRsmall v | wrCfgRcoff v | wrCfgRcdepth v | wrCfgMaxblk v | wrCfgSlot v | wrCfgMod v
  | wrCfgRefillv v => exact writeOfReadOnly_alike hm _ v
  | wrUndefined a v => exact hostWrite_alike hm none v _ (.next ⟨rfl, hm⟩)
  | rdUndefined a => exact hostRead_alike hm none _ fun _ _ _ => .next ⟨rfl, hm⟩
  | rdDout =>
    refine hostRead_alike hm (some .dout) popElement fun q hq htest => popElement_alike hm ?_
    cases hq
    simpa [Reg.readTest] using htest
  | rdRcdata =>
    refine hostRead_alike hm (some .rcdata) romWindow fun _ _ _ => ?_
    unfold romWindow
    dsimp only
    split
    · intro t t' ht
      cases ht
    · exact .next ⟨rfl, hm⟩
  | rdStatus | rdErr | rdLen | rdCnt | rdBlk | rdNonce | rdIv | rdTagin | rdTagout | rdRcaddr | rdCfgField | rdCfgW
  | rdCfgRbig | rdCfgRsmall | rdCfgRcoff | rdCfgRcdepth | rdCfgMaxblk | rdCfgSlot | rdCfgMod | rdCfgRefillv =>
    dsimp only [exec, execRdStatus, execRdErr, execRdLen, execRdCnt, execRdBlk, execRdNonce, execRdIv, execRdTagin,
      execRdTagout, execRdRcaddr, execRdCfgField, execRdCfgW, execRdCfgRbig, execRdCfgRsmall, execRdCfgRcoff,
      execRdCfgRcdepth, execRdCfgMaxblk, execRdCfgSlot, execRdCfgMod, execRdCfgRefillv]
    refine plainRead_alike hm _ _ ?_
    rfl

/-! ## The sequencer -/

theorem roundStep_alike (base : Nat) : Alike (roundStep base s) (roundStep base { s with buf := m }) := by
  intro t t' ht ht'
  obtain ⟨-, rfl⟩ := roundStep_cases base _ t ht
  obtain ⟨-, rfl⟩ := roundStep_cases base _ t' ht'
  exact ⟨rfl, hm⟩

/-- `ROLL-commit` reads and writes a written cell (R194). -/
theorem rollCommit_alike (hwf : s.buf.wf = true) (hwf' : m.wf = true) (hblk : s.blk < s.cnt) :
    Alike (rollCommit s) (rollCommit { s with buf := m }) := by
  intro t t' ht ht'
  obtain ⟨-, mask, hmask, rfl⟩ := rollCommit_cases _ t ht
  obtain ⟨-, mask', hmask', rfl⟩ := rollCommit_cases _ t' ht'
  obtain rfl : mask = mask' := Option.some.inj (hmask.symm.trans hmask')
  refine ⟨rfl, fun i hi => ?_⟩
  by_cases hc : i = s.blk
  · simp only [hc, Memory.read_write_same _ _ _ hwf, Memory.read_write_same _ _ _ hwf', hm s.blk hblk]
  · simp only [Memory.read_write_other _ _ _ _ hc, hm i hi]

theorem finCommitEnc_alike : Alike (finCommitEnc s) (finCommitEnc { s with buf := m }) := by
  intro t t' ht ht'
  obtain ⟨tag, htag, rfl⟩ := finCommitEnc_cases _ t ht
  obtain ⟨tag', htag', rfl⟩ := finCommitEnc_cases _ t' ht'
  obtain rfl : tag = tag' := Option.some.inj (htag.symm.trans htag')
  exact ⟨rfl, hm⟩

/-- The failing commit zeroes the same cells of both (R198). -/
theorem finCommitDecFail_alike : Alike (finCommitDecFail s) (finCommitDecFail { s with buf := m }) := by
  intro t t' ht ht'
  obtain ⟨-, rfl⟩ := finCommitDecFail_cases _ t ht
  obtain ⟨-, rfl⟩ := finCommitDecFail_cases _ t' ht'
  refine ⟨rfl, fun i hi => ?_⟩
  simp [Memory.read_zeroBelow, hm i hi]

theorem microStep_alike (hwf : s.buf.wf = true) (hwf' : m.wf = true) (hblk : s.phase = .roll → s.blk < s.cnt) :
    Alike (microStep s) (microStep { s with buf := m }) := by
  have henabled : enabledStep { s with buf := m } = enabledStep s := rfl
  unfold microStep
  rw [henabled]
  cases hstep : enabledStep s with
  | none => exact .next ⟨rfl, hm⟩
  | some k =>
    cases k with
    | ksRound => exact roundStep_alike hm 0
    | rollRound | finRound => exact roundStep_alike hm s.cfg.rcOffset
    | ksExit | finCommitDecOk => exact .next ⟨rfl, hm⟩
    | rollCommit => exact rollCommit_alike hm hwf hwf' (hblk (phase_of_rollCommit hstep))
    | finCommitEnc => exact finCommitEnc_alike hm
    | finCommitDecFail => exact finCommitDecFail_alike hm

end

/-- In an invariant state the block a session is at has been pushed (R35 c). -/
theorem State.Inv.blk_lt_cnt {s : State} (hs : s.Inv) (hp : s.phase = .roll) : s.blk < s.cnt := by
  have hok : s.cfg.cfgOk = true := by
    by_contra hbad
    have hbad' : s.cfg.cfgOk = false := by simpa using hbad
    simp [(hs.dead hbad').phase_eq hbad'] at hp
  obtain ⟨-, -, -, hlen⟩ := (hs.live hok).busyOperands (by simp [hp, Phase.busy])
  exact (hs.bounded.blkRoll hp).trans_eq hlen

/-- Settles O41: the second state is the first with another `BUF`, so both take the same action. -/
theorem unwrittenCellsAreUnobservable : Obligations.UnwrittenCellsAreUnobservable := by
  intro s t s' t' hs hs' hsame ht ht'
  obtain ⟨m, rfl, hm⟩ := (sameButUnwritten_iff s s').mp hsame
  have hwf := hs.canonical.bufForm
  have hwf' := hs'.canonical.bufForm
  have hblk := hs.blk_lt_cnt
  have halike : Alike (step s) (step { s with buf := m }) := by
    cases hin : s.inputs with
    | nil =>
      simp only [step, fetch, hin]
      exact hin ▸ microStep_alike hm hwf hwf' hblk
    | cons e rest =>
      cases e with
      | engine =>
        simp only [step, fetch, hin]
        exact microStep_alike (s := { s with inputs := rest }) hm hwf hwf' hblk
      | reset noise =>
        simp only [step, fetch, hin]
        exact .next ⟨rfl, fun i _ => rfl⟩
      | host tr =>
        simp only [step, fetch, hin]
        cases decode s.cfg.dw tr with
        | ok i => exact exec_alike (s := { s with inputs := rest }) hm i hwf hwf'
        | error why =>
          intro u u' hu
          cases hu
  exact halike t t' ht ht'

end Sys2Proof.Machine
end

section
/-! Every operation, every turn of the sequencer and every step answers from a state with the invariant: the accesses to
`BUF`, the ROM and the mask slot are in range (R47, R225). -/

namespace Sys2Proof.Machine

/-- The outcome is a next state, neither a fault nor a refusal. -/
def Answers (r : Result) : Prop :=
  ∃ t, r = .next t

theorem Answers.next (t : State) : Answers (.next t) :=
  ⟨t, rfl⟩

/-! ## The host procedures (R140, R180) -/

/-- A host write answers where the write of its own rule does after the test of the register. -/
theorem hostWrite_answers (r : Option Reg) (v : Nat) (commit : State → Result) (s : State)
    (h : ∀ q, r = some q → q.writeTest s = none → Answers (commit s)) : Answers (hostWrite r v commit s) := by
  unfold hostWrite
  split
  · exact .next _
  cases r with
  | none => exact .next _
  | some q =>
    dsimp only
    split
    · exact .next _
    split
    · exact .next _
    split
    · exact .next _
    cases htest : q.writeTest s with
    | none => exact h q rfl htest
    | some e => exact .next _

/-- A host read answers where the read of its own rule does after the test of the register. -/
theorem hostRead_answers (r : Option Reg) (value : State → Result) (s : State)
    (h : ∀ q, r = some q → q.readTest s = none → Answers (value s)) : Answers (hostRead r value s) := by
  unfold hostRead
  split
  · exact .next _
  cases r with
  | none => exact .next _
  | some q =>
    dsimp only
    split
    · exact .next _
    split
    · exact .next _
    cases htest : q.readTest s with
    | none => exact h q rfl htest
    | some e => exact .next _

theorem plainWrite_answers (r : Reg) (v : Nat) (store : State → State) (s : State) :
    Answers (plainWrite r v store s) :=
  hostWrite_answers _ v _ s fun _ _ _ => .next _

theorem writeOfReadOnly_answers (r : Reg) (v : Nat) (s : State) : Answers (writeOfReadOnly r v s) :=
  hostWrite_answers _ v _ s fun _ _ _ => .next _

theorem plainRead_answers (r : Reg) (v : State → Nat) (s : State) : Answers (plainRead r v s) :=
  hostRead_answers _ _ s fun _ _ _ => .next _

theorem readOfWriteOnly_answers (r : Reg) (s : State) : Answers (readOfWriteOnly r s) :=
  hostRead_answers _ _ s fun _ _ _ => .next _

theorem command_answers (hi : Nat) (act : State → Result) (s : State) (h : Answers (act s)) :
    Answers (command hi act s) := by
  unfold command
  split
  · exact .next _
  split
  · exact .next _
  · exact h

/-! ## The operations -/

theorem startSession_answers (m : Mode) (s : State) : Answers (startSession m s) := by
  unfold startSession
  split
  · exact .next _
  split
  · exact .next _
  split <;> exact .next _

theorem clearSession_answers (s : State) : Answers (clearSession s) := by
  unfold clearSession
  split <;> exact .next _

/-- `E_BUF` refuses a push into a full `BUF`, so the cell at `CNT` exists (R150). -/
theorem execWrDin_answers (v : Nat) (s : State) (hcnt : s.cnt ≤ s.cfg.maxBlocks) : Answers (execWrDin v s) := by
  refine hostWrite_answers (some .din) v _ s fun q hq htest => ⟨_, pushElement_next v ?_⟩
  cases hq
  have hne : s.cnt ≠ s.cfg.maxBlocks := by simpa [Reg.writeTest] using htest
  omega

/-- `E_BUF` refuses a pop at `CNT`, so the cell at `RDP` exists (R162). -/
theorem execRdDout_answers (s : State) (hcnt : s.cnt ≤ s.cfg.maxBlocks) : Answers (execRdDout s) := by
  refine hostRead_answers (some .dout) _ s fun q hq htest => ⟨_, popElement_next ?_⟩
  cases hq
  have hlt : s.rdp < s.cnt := by simpa [Reg.readTest] using htest
  omega

/-- `E_ADDR` refuses an index beyond the ROM (R164). -/
theorem execRdRcdata_answers (s : State) : Answers (execRdRcdata s) := by
  refine hostRead_answers (some .rcdata) _ s fun q hq htest => ?_
  cases hq
  have hlt : s.rcaddr.toNat < s.cfg.rcDepth := by simpa [Reg.readTest] using htest
  unfold romWindow
  rw [romRead_of_lt _ _ hlt]
  exact .next _

/-- A host operation answers in every state where `CNT` is within `BUF`. -/
theorem exec_answers (i : Instr) (s : State) (hcnt : s.cnt ≤ s.cfg.maxBlocks) : Answers (exec i s) := by
  cases i with
  | cmdNop hi => exact command_answers hi (fun s => .next s) s (.next s)
  | cmdStartEnc hi => exact command_answers hi _ s (startSession_answers .encrypt s)
  | cmdStartDec hi => exact command_answers hi _ s (startSession_answers .decrypt s)
  | cmdClr hi => exact command_answers hi _ s (clearSession_answers s)
  | cmdReserved data => exact command_answers (data / 2 ^ 32) (refuseWrite .cmd) s (.next _)
  | wrDin v => exact execWrDin_answers v s hcnt
  | rdDout => exact execRdDout_answers s hcnt
  | rdRcdata => exact execRdRcdata_answers s
  | wrK0 v | wrK1 v | wrNonce v | wrIv v | wrTagin v | wrLen v | wrRcaddr v =>
    dsimp only [exec, execWrK0, execWrK1, execWrNonce, execWrIv, execWrTagin, execWrLen, execWrRcaddr]
    exact plainWrite_answers _ v _ s
  | wrStatus v | wrErr v | wrCnt v | wrBlk v | wrTagout v | wrDout v | wrRcdata v | wrCfgField v | wrCfgW v
  | wrCfgRbig v | wrCfgRsmall v | wrCfgRcoff v | wrCfgRcdepth v | wrCfgMaxblk v | wrCfgSlot v | wrCfgMod v
  | wrCfgRefillv v => exact writeOfReadOnly_answers _ _ s
  | rdCmd | rdK0 | rdK1 | rdDin => exact readOfWriteOnly_answers _ s
  | rdStatus | rdErr | rdLen | rdCnt | rdBlk | rdNonce | rdIv | rdTagin | rdTagout | rdRcaddr | rdCfgField | rdCfgW
  | rdCfgRbig | rdCfgRsmall | rdCfgRcoff | rdCfgRcdepth | rdCfgMaxblk | rdCfgSlot | rdCfgMod | rdCfgRefillv =>
    dsimp only [exec, execRdStatus, execRdErr, execRdLen, execRdCnt, execRdBlk, execRdNonce, execRdIv, execRdTagin,
      execRdTagout, execRdRcaddr, execRdCfgField, execRdCfgW, execRdCfgRbig, execRdCfgRsmall, execRdCfgRcoff,
      execRdCfgRcdepth, execRdCfgMaxblk, execRdCfgSlot, execRdCfgMod, execRdCfgRefillv]
    exact plainRead_answers _ _ s
  | wrUndefined a v => exact hostWrite_answers none v (fun s => .next s) s nofun
  | rdUndefined a => exact hostRead_answers none (fun s => .next s) s nofun

/-! ## The sequencer -/

/-- In a build with `CFG_OK` true the rounds of both permutations lie within the ROM (R7, R91). -/
theorem rounds_within_rom {c : Config} (h : c.cfgOk = true) :
    c.rBig ≤ c.rcDepth ∧ c.rcOffset + c.rSmall ≤ c.rcDepth := by
  simp only [Config.cfgOk, decide_eq_true_eq] at h
  obtain ⟨-, -, -, -, -, hbig, hsmall, -⟩ := h
  exact ⟨hbig, hsmall.trans hbig⟩

/-- A micro-step is enabled in a busy phase alone, and a round below the limit of its phase alone (R190). -/
theorem enabledStep_bounds {s : State} {k : MicroStep} (h : enabledStep s = some k) :
    s.phase.busy = true ∧ (k = .ksRound → s.rnd < s.cfg.rBig) ∧
      (k = .rollRound ∨ k = .finRound → s.rnd < s.cfg.rSmall) := by
  unfold enabledStep at h
  cases hp : s.phase <;> simp only [hp] at h
  case ks | roll =>
    split at h
    · cases h; simp_all [Phase.busy]
    split at h
    · cases h; simp [Phase.busy]
    · cases h
  case fin =>
    split at h
    · cases h; simp_all [Phase.busy]
    (repeat' split at h) <;> cases h <;> simp [Phase.busy]
  all_goals cases h

/-- A build whose sequencer runs has `CFG_OK` true: one without stays in `FATAL` (R143). -/
theorem State.Inv.cfgOk_of_busy {s : State} (hs : s.Inv) (hb : s.phase.busy = true) : s.cfg.cfgOk = true := by
  by_contra hbad
  have hbad' : s.cfg.cfgOk = false := Bool.eq_false_iff.mpr hbad
  simp [(hs.dead hbad').phase_eq hbad', Phase.busy] at hb

theorem rollCommit_answers {s : State} (hok : s.cfg.cfgOk = true) (hblk : s.blk < s.cfg.maxBlocks) :
    Answers (rollCommit s) := by
  have hread := (bufRead_eq_some s s.blk _).mpr ⟨hblk, rfl⟩
  have hwrite := fun v => (bufWrite_eq_some s _ s.blk v).mpr ⟨hblk, rfl⟩
  unfold rollCommit
  simp only [slot_of_cfgOk _ s.duplex hok, hread, hwrite]
  exact .next _

theorem finCommitEnc_answers {s : State} (hok : s.cfg.cfgOk = true) : Answers (finCommitEnc s) := by
  unfold finCommitEnc
  rw [slot_of_cfgOk _ s.duplex hok]
  exact .next _

theorem finCommitDecFail_answers {s : State} (hok : s.cfg.cfgOk = true) : Answers (finCommitDecFail s) := by
  unfold finCommitDecFail
  rw [slot_of_cfgOk _ s.duplex hok]
  exact .next _

/-- A turn of the sequencer answers: the rounds stay within the ROM, the block within `BUF`, the mask slot is one. -/
theorem State.Inv.microStep_answers {s : State} (hs : s.Inv) : Answers (microStep s) := by
  unfold microStep
  cases hstep : enabledStep s with
  | none => exact .next s
  | some k =>
    obtain ⟨hbusy, hbig, hsmall⟩ := enabledStep_bounds hstep
    have hok := hs.cfgOk_of_busy hbusy
    obtain ⟨hromBig, hromSmall⟩ := rounds_within_rom hok
    cases k with
    | ksRound =>
      have hrnd := hbig rfl
      exact ⟨_, roundStep_next 0 s (by omega)⟩
    | rollRound | finRound =>
      have hrnd := hsmall (by simp)
      exact ⟨_, roundStep_next s.cfg.rcOffset s (by omega)⟩
    | ksExit | finCommitDecOk => exact .next _
    | rollCommit =>
      exact rollCommit_answers hok ((hs.blk_lt_cnt (phase_of_rollCommit hstep)).trans_le hs.bounded.cnt)
    | finCommitEnc => exact finCommitEnc_answers hok
    | finCommitDecFail => exact finCommitDecFail_answers hok

/-! ## The step -/

/-- The only record the decoder rejects is one whose data does not fit the port (R60; log 20). -/
theorem decode_eq_error {dw : Nat} {tr : Transaction} {why : DecodeError} (h : decode dw tr = .error why) :
    2 ^ dw ≤ tr.data ∧ why = .dataTooWide := by
  unfold decode at h
  split at h
  · cases h
  · next hwide => exact ⟨not_lt.mp hwide, by cases h; rfl⟩

/-- A step answers, or its action is a host record that is no transaction of the port. -/
theorem State.Inv.step_answers {s : State} (hs : s.Inv) :
    Answers (step s) ∨
      ∃ tr rest, s.inputs = .host tr :: rest ∧ 2 ^ s.cfg.dw ≤ tr.data ∧
        step s = .refused (.undecodable .dataTooWide) := by
  cases hin : s.inputs with
  | nil => exact .inl (step_of_empty s hin ▸ hs.microStep_answers)
  | cons e rest =>
    have hrest : State.Inv { s with inputs := rest } := hs.withQueueAndReply rest s.rdata
    cases e with
    | engine =>
      simp only [step, fetch, hin]
      exact .inl hrest.microStep_answers
    | reset noise =>
      simp only [step, fetch, hin]
      exact .inl (.next _)
    | host tr =>
      simp only [step, fetch, hin]
      cases hdec : decode s.cfg.dw tr with
      | ok i => exact .inl (exec_answers i _ hrest.bounded.cnt)
      | error why =>
        obtain ⟨hwide, rfl⟩ := decode_eq_error hdec
        exact .inr ⟨tr, rest, rfl, hwide, rfl⟩

/-- Settles O31: the bounds of the invariant are what the operations, the turns and so the steps need to answer. -/
theorem nothingFaults : Obligations.NothingFaults :=
  fun s hs => ⟨fun i => exec_answers i s hs.bounded.cnt, hs.microStep_answers, hs.step_answers⟩

end Sys2Proof.Machine
end

section
/-! The decoder, the encoder and the opcode table (R60 to R65, R71): each of the decoder and the encoder inverts the other
on the transactions of the port, and the decoder is the first-match reading of the table. -/

namespace Sys2Proof

/-! ## The decoder, read from the map of R62 -/

/-- The operation a transaction is, whatever the width of its port (R61). -/
def Transaction.operation (t : Transaction) : Instr :=
  if t.we then decodeWrite t.addr t.data else decodeRead t.addr

/-- The decoder asks of a transaction that its data fits, and nothing else (R65 (e)). -/
theorem decode_eq_ok_iff {dw : Nat} {t : Transaction} {i : Instr} :
    decode dw t = .ok i ↔ t.data < 2 ^ dw ∧ t.operation = i := by
  unfold decode Transaction.operation
  split <;> simp_all

theorem definedAddr_eq_false_iff (a : Addr) :
    definedAddr a = false ↔ a.toNat ∉ definedAddrs.map BitVec.toNat := by
  have hmem : a.toNat ∈ definedAddrs.map BitVec.toNat ↔ a ∈ definedAddrs :=
    List.mem_map_of_injective fun _ _ => BitVec.eq_of_toNat_eq
  simp [hmem, definedAddr]

theorem decodeWrite_undefined {a : Addr} (h : definedAddr a = false) (data : Nat) :
    decodeWrite a data = .wrUndefined a data := by
  rw [definedAddr_eq_false_iff] at h
  unfold decodeWrite
  split
  case h_27 => rfl
  all_goals
    next ha => exact absurd (by rw [ha]; decide) h

theorem decodeRead_undefined {a : Addr} (h : definedAddr a = false) : decodeRead a = .rdUndefined a := by
  rw [definedAddr_eq_false_iff] at h
  unfold decodeRead
  split
  case h_27 => rfl
  all_goals
    next ha => exact absurd (by rw [ha]; decide) h

/-- The low 32 bits of a command word select the command, which keeps the bits above them (R61, R64). -/
theorem decodeCommand_opcode (hi : Nat) :
    decodeCommand (hi * 2 ^ 32 + 0) = .cmdNop hi ∧ decodeCommand (hi * 2 ^ 32 + 1) = .cmdStartEnc hi ∧
    decodeCommand (hi * 2 ^ 32 + 2) = .cmdStartDec hi ∧ decodeCommand (hi * 2 ^ 32 + 3) = .cmdClr hi := by
  have hlow : ∀ k < 2 ^ 32, (hi * 2 ^ 32 + k) % 2 ^ 32 = k := fun k hk => by omega
  have hhigh : ∀ k < 2 ^ 32, (hi * 2 ^ 32 + k) / 2 ^ 32 = hi := fun k hk => by omega
  refine ⟨?_, ?_, ?_, ?_⟩ <;> rw [decodeCommand, hlow _ (by decide), hhigh _ (by decide)] <;> rfl

theorem decodeCommand_reserved {data : Nat} (h : reservedCommand data = true) :
    decodeCommand data = .cmdReserved data := by
  have h4 : 4 ≤ data % 2 ^ 32 := of_decide_eq_true h
  unfold decodeCommand
  split
  case h_5 => rfl
  all_goals omega

/-! ## Encode, then decode -/

theorem operation_wr_command (data : Nat) : (Transaction.wr 0x00 data).operation = decodeCommand data := rfl

theorem operation_wr_undefined {a : Addr} (h : definedAddr a = false) (data : Nat) :
    (Transaction.wr a data).operation = .wrUndefined a data :=
  decodeWrite_undefined h data

theorem operation_rd_undefined {a : Addr} (h : definedAddr a = false) :
    (Transaction.rd a).operation = .rdUndefined a :=
  decodeRead_undefined h

/-- A well-formed operation is the one its own encoding belongs to. -/
theorem operation_encode {dw : Nat} {i : Instr} (h : i.wf dw = true) : (encode i).operation = i := by
  cases i with
  | cmdNop hi =>
    obtain ⟨hword, -⟩ := decodeCommand_opcode hi
    rw [encode, operation_wr_command, hword]
  | cmdStartEnc hi =>
    obtain ⟨-, hword, -⟩ := decodeCommand_opcode hi
    rw [encode, operation_wr_command, hword]
  | cmdStartDec hi =>
    obtain ⟨-, -, hword, -⟩ := decodeCommand_opcode hi
    rw [encode, operation_wr_command, hword]
  | cmdClr hi =>
    obtain ⟨-, -, -, hword⟩ := decodeCommand_opcode hi
    rw [encode, operation_wr_command, hword]
  | cmdReserved data =>
    rw [encode, operation_wr_command, decodeCommand_reserved (Bool.and_eq_true_iff.mp h).2]
  | wrUndefined a data =>
    rw [encode, operation_wr_undefined (by simpa using (Bool.and_eq_true_iff.mp h).2)]
  | rdUndefined a => rw [encode, operation_rd_undefined (by simpa [Instr.wf] using h)]
  | _ => rfl

/-- The encoding of a well-formed operation fits the port (R60). -/
theorem encode_data_lt {dw : Nat} (hd : 32 ≤ dw) {i : Instr} (h : i.wf dw = true) : (encode i).data < 2 ^ dw := by
  cases i with
  | cmdNop hi | cmdStartEnc hi | cmdStartDec hi | cmdClr hi =>
    exact Laws.EncodeFits.command_fits dw hi _ hd (by norm_num) (of_decide_eq_true h)
  | cmdReserved data => exact Laws.EncodeFits.cmdReserved data dw hd h
  | wrUndefined a data => exact Laws.EncodeFits.wrUndefined a data dw hd h
  | wrStatus data | wrErr data | wrLen data | wrCnt data | wrBlk data | wrK0 data | wrK1 data | wrNonce data | wrIv data
  | wrTagin data | wrTagout data | wrDin data | wrDout data | wrRcaddr data | wrRcdata data | wrCfgField data
  | wrCfgW data | wrCfgRbig data | wrCfgRsmall data | wrCfgRcoff data | wrCfgRcdepth data | wrCfgMaxblk data
  | wrCfgSlot data | wrCfgMod data | wrCfgRefillv data => exact of_decide_eq_true h
  | _ => exact Nat.two_pow_pos dw

/-- A transaction whose data fits is read back from its `9 + DW` bits (R60). -/
theorem toBits_lt_and_ofBits_toBits {dw : Nat} {t : Transaction} (h : t.data < 2 ^ dw) :
    t.toBits dw < 2 ^ (dw + 9) ∧ Transaction.ofBits dw (t.toBits dw) = t := by
  obtain ⟨we, a, data⟩ := t
  have ha : a.toNat < 256 := a.isLt
  have hbits : Transaction.toBits dw ⟨we, a, data⟩ = 2 ^ dw * (256 * we.toNat + a.toNat) + data := by
    cases we <;> simp [Transaction.toBits, pow_add] <;> ring
  have htop : we.toNat ≤ 1 := Bool.toNat_le we
  have hdiv : (2 ^ dw * (256 * we.toNat + a.toNat) + data) / 2 ^ dw = 256 * we.toNat + a.toNat := by
    rw [Nat.mul_add_div (Nat.two_pow_pos dw), Nat.div_eq_of_lt h, Nat.add_zero]
  rw [hbits]
  constructor
  · calc 2 ^ dw * (256 * we.toNat + a.toNat) + data < 2 ^ dw * (256 * we.toNat + a.toNat + 1) := by
          rw [Nat.mul_add_one]; exact Nat.add_lt_add_left h _
      _ ≤ 2 ^ dw * 512 := Nat.mul_le_mul_left _ (by omega)
      _ = 2 ^ (dw + 9) := by rw [pow_add]; norm_num
  · have hwe : (256 * we.toNat + a.toNat) / 2 ^ 8 % 2 = we.toNat := by omega
    have haddr : BitVec.ofNat 8 (256 * we.toNat + a.toNat) = a := BitVec.eq_of_toNat_eq (by simp; omega)
    rw [Transaction.ofBits, pow_add, ← Nat.div_div_eq_div_mul, hdiv, hwe, haddr, Nat.mul_add_mod, Nat.mod_eq_of_lt h]
    cases we <;> rfl

/-- Settles O2: a well-formed operation fits the port and is the operation of its own encoding; the bit pattern is a
faithful record of the transaction. -/
theorem decodeInvertsEncode : Obligations.DecodeInvertsEncode := by
  intro dw i hd hwf
  have hfits := encode_data_lt hd hwf
  have hdec : decode dw (encode i) = .ok i := decode_eq_ok_iff.mpr ⟨hfits, operation_encode hwf⟩
  obtain ⟨hlt, hof⟩ := toBits_lt_and_ofBits_toBits hfits
  refine ⟨hdec, ?_⟩
  rw [decodeBits, encodeBits, if_pos hlt, hof, hdec]

/-! ## Decode, then encode -/

theorem wf_decodeCommand {dw data : Nat} (hd : 32 ≤ dw) (h : data < 2 ^ dw) : (decodeCommand data).wf dw = true := by
  have hhi : data / 2 ^ 32 < 2 ^ (dw - 32) := by
    rwa [Nat.div_lt_iff_lt_mul (by decide), ← pow_add, Nat.sub_add_cancel hd]
  unfold decodeCommand
  split
  case h_5 h0 h1 h2 h3 =>
    simp only [imp_false] at h0 h1 h2 h3
    have hres : reservedCommand data = true := decide_eq_true (by omega)
    exact Bool.and_eq_true_iff.mpr ⟨decide_eq_true h, hres⟩
  all_goals exact decide_eq_true hhi

/-- A decoded write is well-formed: `definedAddrs` lists the addresses the decoder names. -/
theorem wf_decodeWrite {dw data : Nat} (hd : 32 ≤ dw) (h : data < 2 ^ dw) (a : Addr) :
    (decodeWrite a data).wf dw = true := by
  cases hdef : definedAddr a with
  | false =>
    rw [decodeWrite_undefined hdef]
    simp [Instr.wf, h, hdef]
  | true =>
    have hmem : a ∈ definedAddrs := List.contains_iff_mem.mp hdef
    fin_cases hmem
    · exact wf_decodeCommand hd h
    all_goals exact decide_eq_true h

theorem wf_decodeRead (dw : Nat) (a : Addr) : (decodeRead a).wf dw = true := by
  cases hdef : definedAddr a with
  | false =>
    rw [decodeRead_undefined hdef]
    simp [Instr.wf, hdef]
  | true =>
    have hmem : a ∈ definedAddrs := List.contains_iff_mem.mp hdef
    fin_cases hmem <;> rfl

theorem encode_decodeRead (a : Addr) : encode (decodeRead a) = .rd a := by
  unfold decodeRead
  split
  case h_27 => rfl
  all_goals
    next ha => exact congrArg Transaction.rd (BitVec.eq_of_toNat_eq (by rw [ha]; rfl))

theorem wf_operation {dw : Nat} (hd : 32 ≤ dw) {t : Transaction} (h : t.data < 2 ^ dw) : t.operation.wf dw = true := by
  obtain ⟨we, a, data⟩ := t
  cases we with
  | true => exact wf_decodeWrite hd h a
  | false => exact wf_decodeRead dw a

/-- Encoding the operation of a transaction gives the transaction back, up to the ignored data of a read (R60). -/
theorem encode_operation (t : Transaction) :
    encode t.operation = { t with data := if t.we = true then t.data else 0 } := by
  obtain ⟨we, a, data⟩ := t
  cases we with
  | true => exact encode_decodeWrite a data
  | false => exact encode_decodeRead a

/-- Settles O3: the operation of a transaction is well-formed and encodes to it again. -/
theorem everyTransactionDecodes : Obligations.EveryTransactionDecodes := by
  intro dw t hd
  exact ⟨fun h => ⟨t.operation, decode_eq_ok_iff.mpr ⟨h, rfl⟩, wf_operation hd h, encode_operation t⟩,
    fun h => if_neg h.not_gt⟩

/-! ## The rows of the opcode table over the two halves of the key (R61) -/

/-- Bits 40:32 of a key: `we` and `addr`. -/
def keyHead (k : BitVec 41) : BitVec 9 :=
  k.extractLsb' 32 9

/-- Bits 31:0 of a key: `data[31:0]`. -/
def keyData (k : BitVec 41) : BitVec 32 :=
  k.extractLsb' 0 32

theorem keyHead_append_keyData (k : BitVec 41) : keyHead k ++ keyData k = k :=
  BitVec.extractLsb'_append_extractLsb' (w := 9) (len := 32)

/-- A row covers a key where it covers each half of it. -/
theorem covers_append_iff (r : OpcodeRow) (h : BitVec 9) (d : BitVec 32) :
    r.covers (h ++ d) = true ↔
      h &&& keyHead r.mask = keyHead r.pattern ∧ d &&& keyData r.mask = keyData r.pattern := by
  have hmask : (h ++ d) &&& r.mask = (h &&& keyHead r.mask) ++ (d &&& keyData r.mask) := by
    rw [← BitVec.and_append, keyHead_append_keyData]
  rw [OpcodeRow.covers, beq_iff_eq, hmask]
  constructor
  · rintro hp
    rw [← hp]
    exact ⟨BitVec.extractLsb'_append_eq_left.symm, BitVec.extractLsb'_append_eq_right.symm⟩
  · rintro ⟨hh, hd⟩
    rw [hh, hd, keyHead_append_keyData]

/-- The command rows alone look at the data, and those are for a write to `CMD`. -/
theorem opcodeTable_data :
    ∀ r ∈ opcodeTable, keyData r.mask = 0 ∨ (keyHead r.mask = BitVec.allOnes 9 ∧ keyHead r.pattern = 0x100) := by
  decide

/-- Every row but the two catch-alls of the undefined addresses is for one defined address. -/
theorem specificRows_head :
    ∀ r ∈ commandRows ++ registerRows ++ configRows,
      keyHead r.mask = BitVec.allOnes 9 ∧ definedAddr ((keyHead r.pattern).setWidth 8) = true := by
  decide

/-- The rows before `CMD.reserved` are for one word each, below 4 (R64). -/
theorem commandRows_data :
    ∀ r ∈ commandRows.take 4, keyData r.mask = BitVec.allOnes 32 ∧ (keyData r.pattern).toNat < 4 := by
  decide

theorem head_ne_of_not_commandWrite {we : Bool} {a : Addr} (h : we = true → a ≠ 0x00) :
    BitVec.ofBool we ++ a ≠ 0x100#9 := by
  have hcmd : 0x100#9 = BitVec.ofBool true ++ 0#8 := rfl
  rw [hcmd]
  intro heq
  have ha : a = 0#8 := by
    rw [← BitVec.setWidth_append_eq_right (a := BitVec.ofBool we) (b := a), heq, BitVec.setWidth_append_eq_right]
  subst ha
  have hwe := (BitVec.append_left_inj 0#8).mp heq
  cases we with
  | true => exact h rfl rfl
  | false => cases hwe

/-- Other than for a write to `CMD` the data of a key is not looked at. -/
theorem tableMnemonic_append_zero {h : BitVec 9} (hcmd : h ≠ 0x100) (d : BitVec 32) :
    tableMnemonic (h ++ d) = tableMnemonic (h ++ 0#32) := by
  have hrows : ∀ r ∈ opcodeTable, r.covers (h ++ d) = r.covers (h ++ 0#32) := by
    intro r hr
    rw [Bool.eq_iff_iff, covers_append_iff, covers_append_iff]
    rcases opcodeTable_data r hr with hdata | ⟨hmask, hpattern⟩
    · simp [hdata]
    · have hhead : h &&& keyHead r.mask ≠ keyHead r.pattern := by
        rwa [hmask, hpattern, BitVec.and_allOnes]
      simp [hhead]
  rw [tableMnemonic, tableMnemonic, List.find?_congr hrows]

/-- A key with an undefined address is of no specific row. -/
theorem find?_specificRows_undefined {a : Addr} (h : definedAddr a = false) (we : Bool) (d : BitVec 32) :
    (commandRows ++ registerRows ++ configRows).find? (·.covers (BitVec.ofBool we ++ a ++ d)) = none := by
  rw [List.find?_eq_none]
  intro r hr hcov
  obtain ⟨hmask, hdef⟩ := specificRows_head r hr
  obtain ⟨hhead, -⟩ := (covers_append_iff r _ d).mp hcov
  rw [hmask, BitVec.and_allOnes] at hhead
  rw [← hhead, BitVec.setWidth_append_eq_right, h] at hdef
  cases hdef

/-- The catch-all rows look at `we` alone. -/
theorem undefinedRows_mask :
    ∀ r ∈ undefinedRows,
      keyHead r.mask = BitVec.ofBool true ++ 0#8 ∧ keyData r.mask = 0#32 ∧ keyData r.pattern = 0#32 := by
  decide

theorem covers_undefinedRow {r : OpcodeRow} (hr : r ∈ undefinedRows) (we : Bool) (a : Addr) (d : BitVec 32) :
    r.covers (BitVec.ofBool we ++ a ++ d) = (BitVec.ofBool we ++ 0#8 == keyHead r.pattern) := by
  obtain ⟨hmask, hdata, hpattern⟩ := undefinedRows_mask r hr
  have hwe : BitVec.ofBool we &&& BitVec.ofBool true = BitVec.ofBool we := by cases we <;> rfl
  rw [Bool.eq_iff_iff, covers_append_iff, hmask, hdata, hpattern, BitVec.and_append, hwe, BitVec.and_zero,
    BitVec.and_zero, beq_iff_eq, and_iff_left rfl]

/-- A key with an undefined address falls to the catch-all of its direction (R71). -/
theorem tableMnemonic_undefined {a : Addr} (h : definedAddr a = false) (we : Bool) (d : BitVec 32) :
    tableMnemonic (BitVec.ofBool we ++ a ++ d) = some (if we then "WR.undefined" else "RD.undefined") := by
  rw [tableMnemonic, opcodeTable, List.find?_append, find?_specificRows_undefined h, Option.none_or,
    List.find?_congr fun r hr => covers_undefinedRow hr we a d]
  cases we <;> rfl

/-- A write to `CMD` of any other word than the four is of the row `CMD.reserved` (R185). -/
theorem tableMnemonic_reserved {d : BitVec 32} (h : 4 ≤ d.toNat) :
    tableMnemonic (BitVec.ofBool true ++ 0#8 ++ d) = some "CMD.reserved" := by
  have hnamed : (commandRows.take 4).find? (·.covers (BitVec.ofBool true ++ 0#8 ++ d)) = none := by
    rw [List.find?_eq_none]
    intro r hr hcov
    obtain ⟨hmask, hlt⟩ := commandRows_data r hr
    obtain ⟨-, hdata⟩ := (covers_append_iff r _ d).mp hcov
    rw [hmask, BitVec.and_allOnes] at hdata
    rw [← hdata] at hlt
    exact absurd hlt h.not_gt
  have hreserved :
      OpcodeRow.covers ⟨"CMD.reserved", 0x10000000000, 0x1FF00000000⟩ (BitVec.ofBool true ++ 0#8 ++ d) = true :=
    (covers_append_iff _ _ _).mpr ⟨rfl, BitVec.and_zero⟩
  have htable : opcodeTable =
      commandRows.take 4 ++ ⟨"CMD.reserved", 0x10000000000, 0x1FF00000000⟩ :: opcodeTable.drop 5 := rfl
  rw [tableMnemonic, htable, List.find?_append, hnamed, Option.none_or, List.find?_cons_of_pos (by exact hreserved)]
  rfl

/-! ## The operation of a key -/

theorem tableMnemonic_command (data : Nat) :
    tableMnemonic (BitVec.ofBool true ++ 0#8 ++ BitVec.ofNat 32 data) = some (decodeCommand data).mnemonic := by
  unfold decodeCommand
  split
  case h_5 h0 h1 h2 h3 =>
    simp only [imp_false] at h0 h1 h2 h3
    exact tableMnemonic_reserved (by rw [BitVec.toNat_ofNat]; omega)
  all_goals
    next hlow =>
      have hword : BitVec.ofNat 32 data = BitVec.ofNat 32 (data % 2 ^ 32) :=
        BitVec.eq_of_toNat_eq (by rw [BitVec.toNat_ofNat, BitVec.toNat_ofNat, Nat.mod_mod])
      rw [hword, hlow]
      rfl

theorem decodeWrite_mnemonic {a : Addr} (h : a ≠ 0x00) (data : Nat) :
    (decodeWrite a data).mnemonic = (decodeWrite a 0).mnemonic := by
  unfold decodeWrite
  split
  case h_1 ha => exact absurd (BitVec.eq_of_toNat_eq ha) h
  all_goals rfl

/-- At every defined address, `CMD` writes apart, the first row that covers the key spells the decoded operation. -/
theorem tableMnemonic_definedAddrs :
    (definedAddrs.map fun a => tableMnemonic (BitVec.ofBool false ++ a ++ 0#32)) =
      (definedAddrs.map fun a => some (decodeRead a).mnemonic) ∧
    (definedAddrs.tail.map fun a => tableMnemonic (BitVec.ofBool true ++ a ++ 0#32)) =
      (definedAddrs.tail.map fun a => some (decodeWrite a 0).mnemonic) :=
  ⟨rfl, rfl⟩

theorem tableMnemonic_read (a : Addr) (d : BitVec 32) :
    tableMnemonic (BitVec.ofBool false ++ a ++ d) = some (decodeRead a).mnemonic := by
  cases hdef : definedAddr a with
  | false => rw [tableMnemonic_undefined hdef, decodeRead_undefined hdef]; rfl
  | true =>
    have hmem : a ∈ definedAddrs := List.contains_iff_mem.mp hdef
    rw [tableMnemonic_append_zero (head_ne_of_not_commandWrite (we := false) nofun)]
    exact List.map_inj_left.mp tableMnemonic_definedAddrs.1 a hmem

theorem tableMnemonic_write (a : Addr) (data : Nat) :
    tableMnemonic (BitVec.ofBool true ++ a ++ BitVec.ofNat 32 data) = some (decodeWrite a data).mnemonic := by
  cases hdef : definedAddr a with
  | false => rw [tableMnemonic_undefined hdef, decodeWrite_undefined hdef]; rfl
  | true =>
    by_cases hcmd : a = 0x00
    · subst hcmd
      exact tableMnemonic_command data
    · have hmem : a ∈ definedAddrs.tail := by
        have : a ∈ (0x00 : Addr) :: definedAddrs.tail := List.contains_iff_mem.mp hdef
        exact (List.mem_cons.mp this).resolve_left hcmd
      rw [tableMnemonic_append_zero (head_ne_of_not_commandWrite fun _ => hcmd), decodeWrite_mnemonic hcmd]
      exact List.map_inj_left.mp tableMnemonic_definedAddrs.2 a hmem

/-- Settles O4: the table, read by first match, names the operation of every transaction, and a decoded transaction is its
operation. -/
theorem decoderFollowsOpcodeTable : Obligations.DecoderFollowsOpcodeTable := by
  intro dw t i _ hdec
  obtain ⟨-, rfl⟩ := decode_eq_ok_iff.mp hdec
  obtain ⟨we, a, data⟩ := t
  cases we with
  | true => exact tableMnemonic_write a data
  | false => exact tableMnemonic_read a _

/-- Settles O1: ten closed words. -/
theorem tableWordsDecode : Obligations.TableWordsDecode := by
  unfold Obligations.TableWordsDecode
  decide

end Sys2Proof
end

section
/-! The order of the tests of a host transaction other than to `CMD` (R140): the procedures of the model take the tests of
the address map of R62 and the phase table of R140, register by register. -/

open Sys2Proof.Claims

namespace Sys2Proof.Machine

/-! ## The address map (R62) -/

/-- An undefined address is neither written nor read in any phase. -/
theorem phases_undefined {a : Addr} (h : definedAddr a = false) :
    writePhases a.toNat = none ∧ readPhases a.toNat = none := by
  rw [definedAddr_eq_false_iff] at h
  simp only [definedAddrs, List.map, List.cons_append, List.nil_append, List.mem_cons, not_or] at h
  constructor
  · simp_all [writePhases]
  · simp_all [readPhases]

/-! ## The tests of the procedures -/

/-- The first test of a host write that fires (R140), outside `FATAL`. -/
def firstWriteTest (q : Option Reg) (v : Nat) (s : State) : Option Exc :=
  match q with
  | none => some .addr
  | some r =>
    if r.writable = false then some .addr
    else if r.writePhase s.phase = false then some .seq
    else if r.inRange s.cfg v = false then some .range
    else r.writeTest s

/-- The first test of a host read that fires (R140), outside `FATAL`. -/
def firstReadTest (q : Option Reg) (s : State) : Option Exc :=
  match q with
  | none => some .addr
  | some r =>
    if r.readable = false then some .addr
    else if r.readPhase s.phase = false then some .seq
    else r.readTest s

theorem writeTest_eq_none {q : Option Reg} {v : Nat} {s : State} (h : firstWriteTest q v s = none) :
    ∃ r, q = some r ∧ r.writeTest s = none := by
  unfold firstWriteTest at h
  cases q with
  | none => cases h
  | some r =>
    dsimp only at h
    split_ifs at h
    exact ⟨r, rfl, h⟩

theorem readTest_eq_none {q : Option Reg} {s : State} (h : firstReadTest q s = none) :
    ∃ r, q = some r ∧ r.readTest s = none := by
  unfold firstReadTest at h
  cases q with
  | none => cases h
  | some r =>
    dsimp only at h
    split_ifs at h
    exact ⟨r, rfl, h⟩

/-- A host write is refused by its first test that fires, and is the write of its register where none does. -/
theorem hostWrite_of_firstWriteTest {q : Option Reg} {v : Nat} {commit : State → Result} {s : State}
    (hp : s.phase ≠ .fatal) :
    (∀ e, firstWriteTest q v s = some e → hostWrite q v commit s = refuseWrite e s) ∧
    (firstWriteTest q v s = none → hostWrite q v commit s = commit s) := by
  unfold firstWriteTest hostWrite
  rw [if_neg hp]
  cases q with
  | none => simp
  | some r =>
    dsimp only
    split
    · simp
    split
    · simp
    split
    · simp
    cases r.writeTest s <;> simp

/-- A host read is refused by its first test that fires, and is the read of its register where none does. -/
theorem hostRead_of_firstReadTest {q : Option Reg} {value : State → Result} {s : State} (hp : s.phase ≠ .fatal) :
    (∀ e, firstReadTest q s = some e → hostRead q value s = refuseRead e s) ∧
    (firstReadTest q s = none → hostRead q value s = value s) := by
  unfold firstReadTest hostRead
  rw [if_neg fun h => hp h.1]
  cases q with
  | none => simp
  | some r =>
    dsimp only
    split
    · simp
    split
    · simp
    cases r.readTest s <;> simp

/-! ## They are the tests of the map (R62, R140) -/

/-- The column "write phases", by register and by address. -/
theorem writePhases_addr {r : Reg} (hr : r ≠ .cmd) :
    r.writable = false ∧ writePhases r.addr.toNat = none ∨
    r.writable = true ∧ ∃ ps, writePhases r.addr.toNat = some ps ∧ ∀ p, r.writePhase p = false ↔ p ∉ ps := by
  cases r
  case cmd => exact absurd rfl hr
  case len | k0 | k1 | nonce | iv | tagin | din | rcaddr =>
    exact .inr ⟨rfl, _, rfl, fun p => by cases p <;> decide⟩
  all_goals exact .inl ⟨rfl, rfl⟩

/-- The column "read phases", by register and by address. -/
theorem readPhases_addr (r : Reg) :
    r.readable = false ∧ readPhases r.addr.toNat = none ∨
    r.readable = true ∧ ∃ ps, readPhases r.addr.toNat = some ps ∧ ∀ p, r.readPhase p = false ↔ p ∉ ps := by
  cases r
  case cmd | k0 | k1 | din => exact .inl ⟨rfl, rfl⟩
  all_goals exact .inr ⟨rfl, _, rfl, fun p => by cases p <;> decide⟩

/-- The range of the data (R66): of the registers that can be written, `LEN` and `RCADDR` are control words. -/
theorem inRange_addr {r : Reg} (hr : r ≠ .cmd) (hw : r.writable = true) (c : Config) (v : Nat) :
    r.inRange c v = false ↔
      (if r.addr.toNat = 0x03 ∨ r.addr.toNat = 0x10 then 2 ^ 32 else c.field.order) ≤ v := by
  cases r
  case cmd => exact absurd rfl hr
  case len | rcaddr => exact decide_eq_false_iff_not.trans not_lt
  case k0 | k1 | nonce | iv | tagin | din => exact decide_eq_false_iff_not.trans not_lt
  all_goals cases hw

theorem writeTest_addr (r : Reg) (s : State) :
    (r.writeTest s).map Exc.code = if r.addr.toNat = 0x0E ∧ s.cnt = s.cfg.maxBlocks then some 7 else none := by
  cases r
  case din =>
    by_cases hfull : s.cnt = s.cfg.maxBlocks <;> simp [Reg.writeTest, Reg.addr, hfull, Exc.code]
  all_goals rfl

theorem readTest_addr (r : Reg) (s : State) :
    (r.readTest s).map Exc.code =
      if r.addr.toNat = 0x0F ∧ s.cnt ≤ s.rdp then some 7
      else if r.addr.toNat = 0x11 ∧ s.cfg.rc.length ≤ s.rcaddr.toNat then some 8 else none := by
  cases r
  case dout => by_cases hempty : s.cnt ≤ s.rdp <;> simp [Reg.readTest, Reg.addr, hempty, Exc.code]
  case rcdata =>
    by_cases hrom : s.cfg.rc.length ≤ s.rcaddr.toNat <;>
      simp [Reg.readTest, Reg.addr, Config.rcDepth, hrom, Exc.code]
  all_goals rfl

/-- The first test of a write that fires is that of the address of its register. -/
theorem writeRefusal_addr {r : Reg} (hr : r ≠ .cmd) (s : State) (v : Nat) :
    writeRefusal s r.addr.toNat v = (firstWriteTest (some r) v s).map Exc.code := by
  unfold writeRefusal firstWriteTest
  rcases writePhases_addr hr with ⟨hw, hps⟩ | ⟨hw, ps, hps, hmem⟩
  · simp only [hw, hps]
    rfl
  · simp only [hw, hps, hmem, Bool.true_eq_false, if_false, inRange_addr hr hw, ← writeTest_addr]
    split_ifs <;> rfl

/-- The first test of a read that fires is that of the address of its register. -/
theorem readRefusal_addr (r : Reg) (s : State) :
    readRefusal s r.addr.toNat = (firstReadTest (some r) s).map Exc.code := by
  unfold readRefusal firstReadTest
  rcases readPhases_addr r with ⟨hr, hps⟩ | ⟨hr, ps, hps, hmem⟩
  · simp only [hr, hps]
    rfl
  · simp only [hr, hps, hmem, Bool.true_eq_false, if_false, ← readTest_addr]
    split_ifs <;> rfl

/-! ## The outcome of a host transaction -/

/-- The operation answers and raises nothing. -/
def Completes (r : Result) (s : State) : Prop :=
  ∃ t, r = .next t ∧ t.err = s.err

/-- The outcome of a write of `v` at address `a` is what the tests of R140 say. -/
def FollowsWriteTests (r : Result) (s : State) (a v : Nat) : Prop :=
  (∀ b, writeRefusal s a v = some b → r = .next (raised b s)) ∧ (writeRefusal s a v = none → Completes r s)

/-- The outcome of a read at address `a` is what the tests of R140 say. -/
def FollowsReadTests (r : Result) (s : State) (a : Nat) : Prop :=
  (∀ b, readRefusal s a = some b → r = .next (readRefused b s)) ∧ (readRefusal s a = none → Completes r s)

section
variable {s : State} (hp : s.phase ≠ .fatal)
include hp

/-- A host write follows the tests where its address has the tests of its register and its own rule completes. -/
theorem hostWrite_followsTests {q : Option Reg} {a v : Nat} {commit : State → Result}
    (hq : writeRefusal s a v = (firstWriteTest q v s).map Exc.code)
    (hcommit : ∀ r, q = some r → r.writeTest s = none → Completes (commit s) s) :
    FollowsWriteTests (hostWrite q v commit s) s a v := by
  obtain ⟨hrefuse, hpass⟩ := hostWrite_of_firstWriteTest (q := q) (v := v) (commit := commit) hp
  rw [FollowsWriteTests, hq]
  cases htest : firstWriteTest q v s with
  | none =>
    obtain ⟨r, hr, hown⟩ := writeTest_eq_none htest
    exact ⟨nofun, fun _ => hpass htest ▸ hcommit r hr hown⟩
  | some e =>
    refine ⟨fun b hb => ?_, nofun⟩
    cases hb
    exact hrefuse e htest

/-- A host read follows the tests where its address has the tests of its register and its own rule completes. -/
theorem hostRead_followsTests {q : Option Reg} {a : Nat} {value : State → Result}
    (hq : readRefusal s a = (firstReadTest q s).map Exc.code)
    (hvalue : ∀ r, q = some r → r.readTest s = none → Completes (value s) s) :
    FollowsReadTests (hostRead q value s) s a := by
  obtain ⟨hrefuse, hpass⟩ := hostRead_of_firstReadTest (q := q) (value := value) hp
  rw [FollowsReadTests, hq]
  cases htest : firstReadTest q s with
  | none =>
    obtain ⟨r, hr, hown⟩ := readTest_eq_none htest
    exact ⟨nofun, fun _ => hpass htest ▸ hvalue r hr hown⟩
  | some e =>
    refine ⟨fun b hb => ?_, nofun⟩
    cases hb
    exact hrefuse e htest

theorem plainWrite_followsTests {r : Reg} {v : Nat} {store : State → State} (hr : r ≠ .cmd)
    (herr : (store s).err = s.err) : FollowsWriteTests (plainWrite r v store s) s r.addr.toNat v :=
  hostWrite_followsTests hp (writeRefusal_addr hr s v) fun _ _ _ => ⟨_, rfl, herr⟩

theorem writeOfReadOnly_followsTests {r : Reg} {v : Nat} (hr : r ≠ .cmd) :
    FollowsWriteTests (writeOfReadOnly r v s) s r.addr.toNat v :=
  hostWrite_followsTests hp (writeRefusal_addr hr s v) fun _ _ _ => ⟨_, rfl, rfl⟩

theorem plainRead_followsTests (r : Reg) (v : State → Nat) : FollowsReadTests (plainRead r v s) s r.addr.toNat :=
  hostRead_followsTests hp (readRefusal_addr r s) fun _ _ _ => ⟨_, rfl, rfl⟩

theorem readOfWriteOnly_followsTests (r : Reg) : FollowsReadTests (readOfWriteOnly r s) s r.addr.toNat :=
  hostRead_followsTests hp (readRefusal_addr r s) fun _ _ _ => ⟨_, rfl, rfl⟩

/-- A push that no test refuses has room in `BUF` (R150). -/
theorem execWrDin_followsTests (v : Nat) (hcnt : s.cnt ≤ s.cfg.maxBlocks) :
    FollowsWriteTests (execWrDin v s) s Reg.din.addr.toNat v := by
  refine hostWrite_followsTests hp (writeRefusal_addr (by decide) s v) fun r hr htest => ?_
  cases hr
  have hroom : s.cnt ≠ s.cfg.maxBlocks := by simpa [Reg.writeTest] using htest
  exact ⟨_, pushElement_next v (lt_of_le_of_ne hcnt hroom), rfl⟩

/-- A pop that no test refuses has a cell of `BUF` to return (R162). -/
theorem execRdDout_followsTests (hcnt : s.cnt ≤ s.cfg.maxBlocks) :
    FollowsReadTests (execRdDout s) s Reg.dout.addr.toNat := by
  refine hostRead_followsTests hp (readRefusal_addr _ s) fun r hr htest => ?_
  cases hr
  have hlt : s.rdp < s.cnt := by simpa [Reg.readTest] using htest
  exact ⟨_, popElement_next (hlt.trans_le hcnt), rfl⟩

/-- A read of the ROM window that no test refuses is inside the ROM (R164). -/
theorem execRdRcdata_followsTests : FollowsReadTests (execRdRcdata s) s Reg.rcdata.addr.toNat := by
  refine hostRead_followsTests hp (readRefusal_addr _ s) fun r hr htest => ?_
  cases hr
  have hlt : s.rcaddr.toNat < s.cfg.rcDepth := by simpa [Reg.readTest] using htest
  unfold romWindow
  rw [romRead_of_lt _ _ hlt]
  exact ⟨_, rfl, rfl⟩

theorem execWrUndefined_followsTests {a : Addr} (ha : definedAddr a = false) (v : Nat) :
    FollowsWriteTests (execWrUndefined a v s) s a.toNat v :=
  hostWrite_followsTests hp (by rw [writeRefusal, (phases_undefined ha).1]; rfl) nofun

theorem execRdUndefined_followsTests {a : Addr} (ha : definedAddr a = false) :
    FollowsReadTests (execRdUndefined a s) s a.toNat :=
  hostRead_followsTests hp (by rw [readRefusal, (phases_undefined ha).2]; rfl) nofun

/-- Every write other than to `CMD` follows the tests of its address. -/
theorem exec_followsWriteTests (hcnt : s.cnt ≤ s.cfg.maxBlocks) {dw : Nat} {i : Instr} (hwf : i.wf dw = true)
    (hwe : (encode i).we = true) (hcmd : (encode i).addr ≠ 0x00) :
    FollowsWriteTests (exec i s) s (encode i).addr.toNat (encode i).data := by
  cases i with
  | wrDin v => exact execWrDin_followsTests hp v hcnt
  | wrK0 v | wrK1 v | wrNonce v | wrIv v | wrTagin v | wrLen v | wrRcaddr v =>
    dsimp only [exec, execWrK0, execWrK1, execWrNonce, execWrIv, execWrTagin, execWrLen, execWrRcaddr]
    exact plainWrite_followsTests hp (by decide) rfl
  | wrStatus v | wrErr v | wrCnt v | wrBlk v | wrTagout v | wrDout v | wrRcdata v | wrCfgField v | wrCfgW v
  | wrCfgRbig v | wrCfgRsmall v | wrCfgRcoff v | wrCfgRcdepth v | wrCfgMaxblk v | wrCfgSlot v | wrCfgMod v
  | wrCfgRefillv v => exact writeOfReadOnly_followsTests hp (by decide)
  | wrUndefined a v =>
    have ha : definedAddr a = false := by simpa using (Bool.and_eq_true_iff.mp hwf).2
    exact execWrUndefined_followsTests hp ha v
  | cmdNop | cmdStartEnc | cmdStartDec | cmdClr | cmdReserved => exact absurd rfl hcmd
  | _ => cases hwe

/-- Every read follows the tests of its address. -/
theorem exec_followsReadTests (hcnt : s.cnt ≤ s.cfg.maxBlocks) {dw : Nat} {i : Instr} (hwf : i.wf dw = true)
    (hwe : (encode i).we = false) : FollowsReadTests (exec i s) s (encode i).addr.toNat := by
  cases i with
  | rdDout => exact execRdDout_followsTests hp hcnt
  | rdRcdata => exact execRdRcdata_followsTests hp
  | rdCmd | rdK0 | rdK1 | rdDin => exact readOfWriteOnly_followsTests hp _
  | rdStatus | rdErr | rdLen | rdCnt | rdBlk | rdNonce | rdIv | rdTagin | rdTagout | rdRcaddr | rdCfgField | rdCfgW
  | rdCfgRbig | rdCfgRsmall | rdCfgRcoff | rdCfgRcdepth | rdCfgMaxblk | rdCfgSlot | rdCfgMod | rdCfgRefillv =>
    dsimp only [exec, execRdStatus, execRdErr, execRdLen, execRdCnt, execRdBlk, execRdNonce, execRdIv, execRdTagin,
      execRdTagout, execRdRcaddr, execRdCfgField, execRdCfgW, execRdCfgRbig, execRdCfgRsmall, execRdCfgRcoff,
      execRdCfgRcdepth, execRdCfgMaxblk, execRdCfgSlot, execRdCfgMod, execRdCfgRefillv]
    exact plainRead_followsTests hp _ _
  | rdUndefined a =>
    have ha : definedAddr a = false := by simpa [Instr.wf] using hwf
    exact execRdUndefined_followsTests hp ha
  | _ => cases hwe

end

/-- Settles O39: a decoded transaction is well-formed and encodes to its own address and data, whose tests the operation
follows. -/
theorem hostTestsInOrder : Obligations.HostTestsInOrder := by
  intro s tr i hs hp hdec
  obtain ⟨hfits, rfl⟩ := decode_eq_ok_iff.mp hdec
  have hwf := wf_operation (le_max_left 32 s.cfg.fw) hfits
  have henc := encode_operation tr
  constructor
  · intro hwe hcmd
    have hwrite := exec_followsWriteTests hp hs.bounded.cnt hwf (henc ▸ hwe) (henc ▸ hcmd)
    rwa [henc, if_pos hwe] at hwrite
  · intro hwe
    have hread := exec_followsReadTests hp hs.bounded.cnt hwf (henc ▸ hwe)
    rwa [henc] at hread

end Sys2Proof.Machine
end

section
/-! The laws of the field operations (R82 to R85): the cancellation of addition and subtraction in each family, and the
other laws from the ring that represents the elements. -/

namespace Sys2Proof

/-! ## Subtraction undoes addition, and addition undoes subtraction -/

/-- `(a + b) - b = a` (R84), whether or not `p` is prime and `POLY` irreducible. -/
theorem FieldSpec.add_sub_cancel_right (f : FieldSpec) (a b : Nat) (ha : a < f.order) (hb : b < f.order) :
    f.sub (f.add a b) b = a := by
  cases f with
  | prime p =>
    replace ha : a < p := ha
    replace hb : b < p := hb
    change (if b ≤ (a + b) % p then (a + b) % p - b else (a + b) % p + p - b) = a
    by_cases hwrap : a + b < p
    · rw [Nat.mod_eq_of_lt hwrap, if_pos (by omega), Nat.add_sub_cancel]
    · have hmod : (a + b) % p = a + b - p := by
        rw [Nat.mod_eq_sub_mod (by omega), Nat.mod_eq_of_lt (by omega)]
      rw [hmod, if_neg (by omega)]
      omega
  | binary n poly => exact Nat.xor_xor_cancel_right a b

/-- `(a - b) + b = a` (R84), whether or not `p` is prime and `POLY` irreducible. -/
theorem FieldSpec.sub_add_cancel (f : FieldSpec) (a b : Nat) (ha : a < f.order) (hb : b < f.order) :
    f.add (f.sub a b) b = a := by
  cases f with
  | prime p =>
    replace ha : a < p := ha
    replace hb : b < p := hb
    change ((if b ≤ a then a - b else a + p - b) + b) % p = a
    split
    · rw [Nat.sub_add_cancel ‹b ≤ a›, Nat.mod_eq_of_lt ha]
    · rw [Nat.sub_add_cancel (by omega), Nat.add_mod_right, Nat.mod_eq_of_lt ha]
  | binary n poly => exact Nat.xor_xor_cancel_right a b

/-! ## The laws of a commutative ring -/

section
variable {f : FieldSpec} {K : Type} [CommRing K] {e : Elt → K} (he : f.Represents e)
include he

/-- Subtraction is that of the ring, since adding `b` again gives `a`. -/
theorem FieldSpec.Represents.map_sub (a b : Elt) (ha : a < f.order) (hb : b < f.order) :
    e (f.sub a b) = e a - e b := by
  rw [eq_sub_iff_add_eq, ← he.map_add _ _ (f.sub_lt_order a b ha hb) hb, f.sub_add_cancel a b ha hb]

variable {a b c : Elt} (ha : a < f.order) (hb : b < f.order) (hc : c < f.order)
include ha

theorem FieldSpec.Represents.add_zero : f.add a 0 = a := by
  have h0 : 0 < f.order := Nat.zero_lt_of_lt ha
  refine he.inj _ _ (he.add_lt a 0 ha h0) ha ?_
  simp [he.map_add, he.map_zero, ha, h0]

theorem FieldSpec.Represents.mul_zero : f.mul a 0 = 0 := by
  have h0 : 0 < f.order := Nat.zero_lt_of_lt ha
  refine he.inj _ _ (he.mul_lt a 0 ha h0) h0 ?_
  simp [he.map_mul, he.map_zero, ha, h0]

theorem FieldSpec.Represents.mul_one (h1 : 1 < f.order) : f.mul a 1 = a := by
  refine he.inj _ _ (he.mul_lt a 1 ha h1) ha ?_
  simp [he.map_mul, he.map_one, ha, h1]

include hb

theorem FieldSpec.Represents.add_comm : f.add a b = f.add b a := by
  refine he.inj _ _ (he.add_lt a b ha hb) (he.add_lt b a hb ha) ?_
  simp only [he.map_add, ha, hb]
  ring

theorem FieldSpec.Represents.mul_comm : f.mul a b = f.mul b a := by
  refine he.inj _ _ (he.mul_lt a b ha hb) (he.mul_lt b a hb ha) ?_
  simp only [he.map_mul, ha, hb]
  ring

theorem FieldSpec.Represents.sub_eq_add_neg : f.sub a b = f.add a (f.sub 0 b) := by
  have h0 : 0 < f.order := Nat.zero_lt_of_lt ha
  have hneg : f.sub 0 b < f.order := f.sub_lt_order 0 b h0 hb
  refine he.inj _ _ (f.sub_lt_order a b ha hb) (he.add_lt a _ ha hneg) ?_
  simp only [he.map_add, he.map_sub, he.map_zero, ha, hb, h0, hneg]
  ring

include hc

theorem FieldSpec.Represents.add_assoc : f.add (f.add a b) c = f.add a (f.add b c) := by
  have hab : f.add a b < f.order := he.add_lt a b ha hb
  have hbc : f.add b c < f.order := he.add_lt b c hb hc
  refine he.inj _ _ (he.add_lt _ c hab hc) (he.add_lt a _ ha hbc) ?_
  simp only [he.map_add, ha, hb, hc, hab, hbc]
  ring

theorem FieldSpec.Represents.mul_assoc : f.mul (f.mul a b) c = f.mul a (f.mul b c) := by
  have hab : f.mul a b < f.order := he.mul_lt a b ha hb
  have hbc : f.mul b c < f.order := he.mul_lt b c hb hc
  refine he.inj _ _ (he.mul_lt _ c hab hc) (he.mul_lt a _ ha hbc) ?_
  simp only [he.map_mul, ha, hb, hc, hab, hbc]
  ring

theorem FieldSpec.Represents.mul_add : f.mul a (f.add b c) = f.add (f.mul a b) (f.mul a c) := by
  have hab : f.mul a b < f.order := he.mul_lt a b ha hb
  have hac : f.mul a c < f.order := he.mul_lt a c ha hc
  have hbc : f.add b c < f.order := he.add_lt b c hb hc
  refine he.inj _ _ (he.mul_lt a _ ha hbc) (he.add_lt _ _ hab hac) ?_
  simp only [he.map_add, he.map_mul, ha, hb, hc, hab, hac, hbc]
  ring

end

/-- Settles O44: the cancellations hold in each family, the other laws in the ring that represents the elements. -/
theorem additionLaws : Obligations.AdditionLaws := by
  intro f a b c hf ha hb hc
  obtain ⟨K, _, e, he⟩ := f.exists_field_represents hf
  exact ⟨f.add_lt_order a b ha hb, f.sub_lt_order a b ha hb, he.add_comm ha hb, he.add_assoc ha hb hc, he.add_zero ha,
    f.add_sub_cancel_right a b ha hb, f.sub_add_cancel a b ha hb, he.sub_eq_add_neg ha hb⟩

/-- Settles O45: the laws hold in the ring that represents the elements. -/
theorem multiplicationLaws : Obligations.MultiplicationLaws := by
  intro f a b c hf ha hb hc
  obtain ⟨K, _, e, he⟩ := f.exists_field_represents hf
  exact ⟨he.mul_lt a b ha hb, he.mul_comm ha hb, he.mul_assoc ha hb hc, he.mul_add ha hb hc,
    he.mul_one ha hf.one_lt_order, he.mul_zero ha⟩

end Sys2Proof
end

section
/-! The byte encoding of elements (R87): the base 256 digits of a number, and the room that `EB` bytes have for an
element. -/

namespace Sys2Proof

/-! ## Digits in base 256 -/

@[simp] theorem length_bytesBE (count a : Nat) : (bytesBE count a).length = count := by
  induction count with
  | zero => rfl
  | succ count ih => rw [bytesBE, List.length_cons, ih]

/-- The digits of `a` do not depend on what stands above them. -/
theorem bytesBE_add_pow_mul (count a x : Nat) : bytesBE count (a + 256 ^ count * x) = bytesBE count a := by
  induction count generalizing x with
  | zero => rfl
  | succ count ih =>
    have hpow : 256 ^ (count + 1) * x = 256 ^ count * (256 * x) := by ring
    have hdigit : BitVec.ofNat 8 (a / 256 ^ count + 256 * x) = BitVec.ofNat 8 (a / 256 ^ count) :=
      BitVec.eq_of_toNat_eq (by simp [Nat.add_mul_mod_self_left])
    rw [bytesBE, bytesBE, hpow, ih, Nat.add_mul_div_left _ _ (by positivity), hdigit]

/-- The first byte is the most significant. -/
theorem natOfBytes_cons (b : BitVec 8) (bs : List (BitVec 8)) :
    natOfBytes (b :: bs) = natOfBytes bs + 256 ^ bs.length * b.toNat := by
  have hacc : ∀ (l : List (BitVec 8)) (acc : Nat),
      l.foldl (fun acc b => 256 * acc + b.toNat) acc = natOfBytes l + 256 ^ l.length * acc := by
    intro l
    induction l with
    | nil => simp [natOfBytes]
    | cons d l ih =>
      intro acc
      rw [natOfBytes, List.foldl_cons, List.foldl_cons, ih, ih, List.length_cons]
      ring
  rw [natOfBytes, List.foldl_cons, hacc]
  simp

theorem natOfBytes_lt (bs : List (BitVec 8)) : natOfBytes bs < 256 ^ bs.length := by
  induction bs with
  | nil => decide
  | cons b bs ih =>
    have hb : 256 ^ bs.length * b.toNat ≤ 256 ^ bs.length * 255 := Nat.mul_le_mul_left _ (by omega)
    rw [natOfBytes_cons, List.length_cons, pow_succ]
    omega

theorem natOfBytes_bytesBE (count a : Nat) : natOfBytes (bytesBE count a) = a % 256 ^ count := by
  induction count with
  | zero => simp [bytesBE, natOfBytes, Nat.mod_one]
  | succ count ih => rw [bytesBE, natOfBytes_cons, ih, length_bytesBE, BitVec.toNat_ofNat, Nat.mod_pow_succ (b := 256)]

theorem bytesBE_natOfBytes (bs : List (BitVec 8)) : bytesBE bs.length (natOfBytes bs) = bs := by
  induction bs with
  | nil => rfl
  | cons b bs ih =>
    have hdigit : (natOfBytes bs + 256 ^ bs.length * b.toNat) / 256 ^ bs.length = b.toNat := by
      rw [Nat.add_mul_div_left _ _ (by positivity), Nat.div_eq_of_lt (natOfBytes_lt bs), Nat.zero_add]
    rw [natOfBytes_cons, List.length_cons, bytesBE, hdigit, bytesBE_add_pow_mul, ih, BitVec.ofNat_toNat,
      BitVec.setWidth_eq]

/-! ## The width of an element (R6) -/

/-- An element has `FW` bits. -/
theorem FieldSpec.order_le_two_pow_fw (f : FieldSpec) : f.order ≤ 2 ^ f.fw := by
  cases f with
  | prime p =>
    rw [FieldSpec.order, FieldSpec.fw]
    split
    · next h => simpa using h
    · have hlog : p - 1 < 2 ^ (Nat.log2 (p - 1) + 1) := Nat.lt_log2_self
      omega
  | binary n poly => exact le_rfl

/-- An element fits its `EB` bytes. -/
theorem Config.order_le_pow_eb (c : Config) : c.field.order ≤ 256 ^ c.eb := by
  have hbits : c.fw ≤ 8 * c.eb := by
    rw [Config.eb]
    omega
  calc c.field.order ≤ 2 ^ c.fw := c.field.order_le_two_pow_fw
    _ ≤ 2 ^ (8 * c.eb) := Nat.pow_le_pow_right (by decide) hbits
    _ = 256 ^ c.eb := by rw [pow_mul]; norm_num

theorem Config.natOfBytes_elementBytes (c : Config) {a : Elt} (ha : a < c.field.order) :
    natOfBytes (c.elementBytes a) = a := by
  rw [Config.elementBytes, natOfBytes_bytesBE, Nat.mod_eq_of_lt (ha.trans_le c.order_le_pow_eb)]

/-- A byte string is that of an element where it has `EB` bytes and its number is the canonical representative. -/
theorem Config.elementOfBytes_eq_some_iff (c : Config) (bs : List (BitVec 8)) (a : Elt) :
    c.elementOfBytes bs = some a ↔ bs.length = c.eb ∧ a < c.field.order ∧ natOfBytes bs = a := by
  rw [Config.elementOfBytes, Option.ite_none_right_eq_some, Option.some.injEq]
  constructor
  · rintro ⟨⟨hlen, hlt⟩, rfl⟩
    exact ⟨hlen, hlt, rfl⟩
  · rintro ⟨hlen, hlt, rfl⟩
    exact ⟨⟨hlen, hlt⟩, rfl⟩

/-- Settles O47: `EB` bytes hold every element, and `EB` digits in base 256 and the number they are determine each
other. -/
theorem byteEncodingRoundTrip : Obligations.ByteEncodingRoundTrip := by
  intro c a bs
  constructor
  · intro ha
    have hlen : (c.elementBytes a).length = c.eb := length_bytesBE c.eb a
    have hnat : natOfBytes (c.elementBytes a) = a := c.natOfBytes_elementBytes ha
    exact ⟨hlen, hnat, (c.elementOfBytes_eq_some_iff _ a).mpr ⟨hlen, ha, hnat⟩⟩
  · intro h
    obtain ⟨hlen, ha, rfl⟩ := (c.elementOfBytes_eq_some_iff bs a).mp h
    refine ⟨ha, ?_⟩
    rw [Config.elementBytes, ← hlen, bytesBE_natOfBytes]

end Sys2Proof
end

section
/-! The round and the two permutations as bijections of the states, and `Small` as a part of `Big` (R88, R91 to R97). -/

open Sys2Proof.Claims

namespace Sys2Proof.Machine

/-! ## `REF3` and its inverse (R96, R97) -/

theorem ref3inv_canonical (f : FieldSpec) (hf : f.shaped = true) (d : Duplex) (rc : Elt) (hd : d.canonical f = true)
    (hrc : rc < f.order) : (ref3inv f d rc).canonical f = true := by
  obtain ⟨h0, h1, h2⟩ := (Duplex.canonical_iff f d).mp hd
  have ht := f.sub_lt_order d.s0 rc h0 hrc
  have hb := f.sub_lt_order _ _ (f.sub_lt_order d.s2 rc h2 hrc) ht
  have hx := f.mul_lt_order hf rc (f.add (f.sub (f.sub d.s2 rc) (f.sub d.s0 rc)) (f.sub d.s0 rc)) hrc
  have ha := f.sub_lt_order _ _ (f.sub_lt_order d.s1 rc h1 hrc) hx
  exact (Duplex.canonical_iff f _).mpr ⟨ha, hb, f.sub_lt_order _ _ ht (f.mul_lt_order hf _ _ ha)⟩

/-- Each line of R97 undoes one line of R96 by `(x + y) - y = x`. -/
theorem ref3inv_ref3 (f : FieldSpec) (hf : f.shaped = true) (d : Duplex) (rc : Elt) (hd : d.canonical f = true)
    (hrc : rc < f.order) : ref3inv f (ref3 f d rc) rc = d := by
  obtain ⟨a, b, c⟩ := d
  obtain ⟨ha, hb, hc⟩ : a < f.order ∧ b < f.order ∧ c < f.order := (Duplex.canonical_iff f _).mp hd
  have hab := f.mul_lt_order hf a b ha
  have ht := f.add_lt_order c _ hc hab
  have hbt := f.add_lt_order b _ hb ht
  have hx := f.mul_lt_order hf rc (f.add b (f.add c (f.mul a b))) hrc
  have hax := f.add_lt_order a _ ha hx
  simp only [ref3inv, ref3, f.add_sub_cancel_right, ha, hb, hc, hrc, hab, ht, hbt, hx, hax]

/-- Each line of R96 undoes one line of R97 by `(x - y) + y = x`. -/
theorem ref3_ref3inv (f : FieldSpec) (hf : f.shaped = true) (d : Duplex) (rc : Elt) (hd : d.canonical f = true)
    (hrc : rc < f.order) : ref3 f (ref3inv f d rc) rc = d := by
  obtain ⟨x, y, z⟩ := d
  obtain ⟨hx, hy, hz⟩ : x < f.order ∧ y < f.order ∧ z < f.order := (Duplex.canonical_iff f _).mp hd
  have ht := f.sub_lt_order x rc hx hrc
  have hz' := f.sub_lt_order z rc hz hrc
  have hy' := f.sub_lt_order y rc hy hrc
  have hm := f.mul_lt_order hf rc (f.sub z rc) hrc
  have ha := f.sub_lt_order _ _ hy' hm
  have hab := f.mul_lt_order hf _ (f.sub (f.sub z rc) (f.sub x rc)) ha
  simp only [ref3inv, ref3, f.sub_add_cancel, hx, hy, hz, hrc, ht, hz', hy', hm, hab]

/-- Settles O48: line by line, with the closure of the elements under the operations. -/
theorem refThreeIsInvertible : Obligations.RefThreeIsInvertible := by
  intro f d rc _ hf hd hrc
  exact ⟨ref3inv_ref3 f hf d rc hd hrc, ref3_ref3inv f hf d rc hd hrc, ref3_canonical f hf d rc hd hrc,
    ref3inv_canonical f hf d rc hd hrc⟩

theorem bijOn_ref3 (f : FieldSpec) (hf : f.shaped = true) (rc : Elt) (hrc : rc < f.order) :
    Set.BijOn (fun d => ref3 f d rc) (states f) (states f) :=
  Set.InvOn.bijOn (f' := fun d => ref3inv f d rc)
    ⟨fun d hd => ref3inv_ref3 f hf d rc hd hrc, fun d hd => ref3_ref3inv f hf d rc hd hrc⟩
    (fun d hd => ref3_canonical f hf d rc hd hrc) (fun d hd => ref3inv_canonical f hf d rc hd hrc)

/-! ## The withheld rounds (R88) -/

/-- The slots of a state as indices below `order`. -/
def Duplex.toTriple (order : Nat) (h : 0 < order) (d : Duplex) : Fin order × Fin order × Fin order :=
  (toFin order h d.s0, toFin order h d.s1, toFin order h d.s2)

/-- The state whose slots are the three indices. -/
def Duplex.ofTriple {order : Nat} (x : Fin order × Fin order × Fin order) : Duplex :=
  { s0 := x.1.val, s1 := x.2.1.val, s2 := x.2.2.val }

theorem toFin_val {order : Nat} (h : 0 < order) (i : Fin order) : toFin order h i.val = i :=
  Fin.ext (Nat.mod_eq_of_lt i.isLt)

@[simp] theorem Duplex.toTriple_ofTriple {order : Nat} (h : 0 < order) (x : Fin order × Fin order × Fin order) :
    (Duplex.ofTriple x).toTriple order h = x := by
  simp [Duplex.toTriple, Duplex.ofTriple, toFin_val]

theorem Duplex.ofTriple_canonical (f : FieldSpec) (x : Fin f.order × Fin f.order × Fin f.order) :
    (Duplex.ofTriple x).canonical f = true :=
  (Duplex.canonical_iff f _).mpr ⟨x.1.isLt, x.2.1.isLt, x.2.2.isLt⟩

theorem Duplex.ofTriple_toTriple {f : FieldSpec} (h : 0 < f.order) {d : Duplex} (hd : d.canonical f = true) :
    Duplex.ofTriple (d.toTriple f.order h) = d := by
  obtain ⟨h0, h1, h2⟩ := (Duplex.canonical_iff f d).mp hd
  simp [Duplex.toTriple, Duplex.ofTriple, toFin, Nat.mod_eq_of_lt, h0, h1, h2]

/-- The canonical states are the triples of indices. -/
theorem Duplex.bijOn_toTriple (f : FieldSpec) (h : 0 < f.order) :
    Set.BijOn (Duplex.toTriple f.order h) (states f) Set.univ :=
  Set.InvOn.bijOn (f' := Duplex.ofTriple)
    ⟨fun _ hd => Duplex.ofTriple_toTriple h hd, fun x _ => Duplex.toTriple_ofTriple h x⟩
    (fun _ _ => Set.mem_univ _) (fun x _ => Duplex.ofTriple_canonical f x)

theorem withheldRound_eq (f : FieldSpec) (h : 0 < f.order) (k : Nat) (d : Duplex) (rc : Elt) :
    withheldRound f k d rc = Duplex.ofTriple (Config.withheldRound f k f.order rc (d.toTriple f.order h)) := by
  rw [withheldRound, dif_pos h]
  rfl

/-- A withheld round is the permutation of R88 (d) on the triples of indices. -/
theorem bijOn_withheldRound (f : FieldSpec) (h : 0 < f.order) (k : Nat) (rc : Elt) :
    Set.BijOn (fun d => withheldRound f k d rc) (states f) (states f) := by
  have hof : Set.BijOn Duplex.ofTriple Set.univ (states f) :=
    (Duplex.bijOn_toTriple f h).symm
      ⟨fun x _ => Duplex.toTriple_ofTriple h x, fun _ hd => Duplex.ofTriple_toTriple h hd⟩
  have hperm : Set.BijOn (Config.withheldRound f k f.order rc) Set.univ Set.univ :=
    Set.bijOn_univ.mpr (Equiv.bijective _)
  exact (hof.comp (hperm.comp (Duplex.bijOn_toTriple f h))).congr fun d _ => (withheldRound_eq f h k d rc).symm

/-! ## The permutations (R91 to R95) -/

theorem bijOn_roundOf {c : Config} (hc : c.admissible = true) (rc : Elt) (hrc : rc < c.field.order) :
    Set.BijOn (fun d => roundOf c d rc) (states c.field) (states c.field) := by
  obtain ⟨-, hshaped, -⟩ := Config.admissible_values hc
  unfold roundOf
  split
  · exact bijOn_ref3 c.field hshaped rc hrc
  · exact bijOn_withheldRound c.field (Config.order_pos hc) _ rc

theorem bijOn_perm {c : Config} (hc : c.admissible = true) (base count : Nat) :
    Set.BijOn (perm c base count) (states c.field) (states c.field) := by
  induction count with
  | zero => exact Set.bijOn_id _
  | succ count ih => exact (bijOn_roundOf hc _ (romWord_lt_order hc (base + count))).comp ih

/-- Settles O49: a permutation of R91 composes bijections. -/
theorem permutationsAreBijections : Obligations.PermutationsAreBijections :=
  fun c hc _ => ⟨bijOn_roundOf hc, bijOn_perm hc 0 c.rBig, bijOn_perm hc c.rcOffset c.rSmall⟩

/-- `m + n` rounds are `m` rounds and then `n` more, with the constants that follow. -/
theorem perm_add (c : Config) (base m n : Nat) (d : Duplex) :
    perm c base (m + n) d = perm c (base + m) n (perm c base m d) := by
  induction n with
  | zero => rfl
  | succ n ih => rw [← Nat.add_assoc, perm, perm, ih, Nat.add_assoc]

/-- The rounds of `Small` are rounds of `Big` (R7). -/
theorem Config.small_rounds_le {c : Config} (h : c.cfgOk = true) : c.rcOffset + c.rSmall ≤ c.rBig := by
  obtain ⟨-, -, -, -, -, -, hslice, -⟩ := of_decide_eq_true h
  exact hslice

/-- The rounds before `Small`, those of `Small`, and as many as follow. -/
theorem perm_around_small (c : Config) (rest : Nat) (d : Duplex) :
    perm c 0 (c.rcOffset + c.rSmall + rest) d =
      perm c (c.rcOffset + c.rSmall) rest (small c (perm c 0 c.rcOffset d)) := by
  rw [perm_add, perm_add, Nat.zero_add, Nat.zero_add, small]

/-- Settles O50: `Big` splits around `Small`, and with the default offset no round follows. -/
theorem smallIsSliceOfBig : Obligations.SmallIsSliceOfBig := by
  intro c d hc
  have hle := Config.small_rounds_le hc
  have hsplit : big c d =
      perm c (c.rcOffset + c.rSmall) (c.rBig - (c.rcOffset + c.rSmall)) (small c (perm c 0 c.rcOffset d)) := by
    rw [big, ← perm_around_small, Nat.add_sub_cancel' hle]
  refine ⟨hsplit, fun hlast => ?_⟩
  have hrest : c.rBig - (c.rcOffset + c.rSmall) = 0 := by omega
  rw [hsplit, hrest, perm, hlast]

end Sys2Proof.Machine
end

section
/-! Differences of elements in every admissible build, and the masks of the trajectory as canonical elements (R84, R113 to
R115). -/

namespace Sys2Proof

/-! ## Differences of elements -/

/-- The structure of an admissible build is a commutative ring, whether or not it is a field (R82, R83). -/
theorem Config.exists_ring_represents {c : Config} (hc : c.admissible = true) :
    ∃ (K : Type) (_ : CommRing K) (e : Elt → K), c.field.Represents e := by
  obtain ⟨-, hshaped, -⟩ := Config.admissible_values hc
  have hpos : 0 < c.field.order := Config.order_pos hc
  cases hf : c.field with
  | prime p =>
    have : NeZero p := ⟨by simpa [hf, FieldSpec.order, Nat.pos_iff_ne_zero] using hpos⟩
    exact ⟨ZMod p, inferInstance, Nat.cast, FieldSpec.represents_prime p⟩
  | binary n poly =>
    obtain ⟨hlo, hhi⟩ : 2 ^ n ≤ poly ∧ poly < 2 ^ (n + 1) := by simpa [hf, FieldSpec.shaped] using hshaped
    exact ⟨AdjoinRoot (bitPoly poly), inferInstance, bitClass poly, FieldSpec.represents_binary n poly hlo hhi⟩

section
variable {c : Config} (hc : c.admissible = true) {a b m : Elt}
include hc

/-- `(a - m) - (b - m) = a - b`: a common mask leaves the difference. -/
theorem Config.sub_sub_sub_cancel_right (ha : a < c.field.order) (hb : b < c.field.order) (hm : m < c.field.order) :
    c.field.sub (c.field.sub a m) (c.field.sub b m) = c.field.sub a b := by
  obtain ⟨K, _, e, he⟩ := Config.exists_ring_represents hc
  have ham := c.field.sub_lt_order a m ha hm
  have hbm := c.field.sub_lt_order b m hb hm
  refine he.inj _ _ (c.field.sub_lt_order _ _ ham hbm) (c.field.sub_lt_order a b ha hb) ?_
  simp only [he.map_sub, ha, hb, hm, ham, hbm]
  ring

/-- `(a + m) - a = m`: a block and its ciphertext disclose the mask. -/
theorem Config.add_sub_cancel_left (ha : a < c.field.order) (hm : m < c.field.order) :
    c.field.sub (c.field.add a m) a = m := by
  obtain ⟨K, _, e, he⟩ := Config.exists_ring_represents hc
  rw [he.add_comm ha hm, c.field.add_sub_cancel_right m a hm ha]

end

end Sys2Proof

namespace Sys2Proof.Machine

/-! ## The trajectory and its masks -/

/-- The trajectory from the DuplexState after one advance is the rest of the trajectory. -/
theorem trajectory_advance (c : Config) (s : Duplex) (i : Nat) :
    trajectory c (advance c s).2 i = trajectory c s (i + 1) := by
  induction i with
  | zero => rfl
  | succ i ih => rw [trajectory, ih, ← trajectory]

theorem maskAt_advance (c : Config) (s : Duplex) (i : Nat) : maskAt c (advance c s).2 i = maskAt c s (i + 1) := by
  rw [maskAt, trajectory_advance, maskAt]

theorem perm_canonical {c : Config} (hc : c.admissible = true) (base count : Nat) {d : Duplex}
    (hd : d.canonical c.field = true) : (perm c base count d).canonical c.field = true :=
  (bijOn_perm hc base count).mapsTo hd

theorem keySchedule_canonical {c : Config} (hc : c.admissible = true) {k0 k1 n iv : Elt} (h0 : k0 < c.field.order)
    (h1 : k1 < c.field.order) (hn : n < c.field.order) (hiv : iv < c.field.order) :
    (keySchedule c k0 k1 n iv).canonical c.field = true :=
  perm_canonical hc 0 c.rBig (ksLayoutOf_canonical h0 h1 hn hiv)

theorem trajectory_canonical {c : Config} (hc : c.admissible = true) {s : Duplex} (hs : s.canonical c.field = true)
    (i : Nat) : (trajectory c s i).canonical c.field = true := by
  induction i with
  | zero => exact hs
  | succ i ih => exact refillOf_canonical hc _ (perm_canonical hc c.rcOffset c.rSmall ih)

/-- The masks of a canonical DuplexState are canonical, `MASK_SLOT` being a slot (R7). -/
theorem maskAt_lt_order {c : Config} (hc : c.admissible = true) (hok : c.cfgOk = true) {s : Duplex}
    (hs : s.canonical c.field = true) (i : Nat) : maskAt c s i < c.field.order :=
  Duplex.slot_lt_order (perm_canonical hc c.rcOffset c.rSmall (trajectory_canonical hc hs i))
    (slot_of_cfgOk c _ hok)

end Sys2Proof.Machine
end

section
/-! `Encrypt` and `Decrypt` in terms of the masks of the trajectory, and what follows from it: the round trip and what the
tag does not cover (R115 to R125). -/

open Sys2Proof.Claims

namespace Sys2Proof.Machine

/-! ## The loop over the blocks -/

/-- The loop gives block `i` the `i`-th mask, and ends after as many advances as there are blocks. -/
theorem maskBlocks_eq (c : Config) (mode : Mode) (s : Duplex) (xs : List Elt) :
    maskBlocks c mode s xs =
      (xs.mapIdx fun i x => maskBlock c mode x (maskAt c s i), trajectory c s xs.length) := by
  induction xs generalizing s with
  | nil => rfl
  | cons x xs ih =>
    simp only [maskBlocks, ih, maskAt_advance, trajectory_advance, List.mapIdx_cons, List.length_cons]
    rfl

theorem encrypt_eq (c : Config) (k0 k1 n iv : Elt) (xs : List Elt) :
    encrypt c k0 k1 n iv xs =
      (xs.mapIdx fun i x => c.field.add x (maskAt c (keySchedule c k0 k1 n iv) i),
        maskAt c (keySchedule c k0 k1 n iv) xs.length) := by
  rw [encrypt, maskBlocks_eq]
  rfl

theorem decrypt_eq (c : Config) (k0 k1 n iv : Elt) (xs : List Elt) (tag : Elt) :
    decrypt c k0 k1 n iv xs tag =
      if tag = maskAt c (keySchedule c k0 k1 n iv) xs.length then
        .ok (xs.mapIdx fun i x => c.field.sub x (maskAt c (keySchedule c k0 k1 n iv) i))
      else .error .authenticationError := by
  rw [decrypt, maskBlocks_eq]
  exact if_congr eq_comm rfl rfl

theorem decrypt_eq_ok_iff (c : Config) (k0 k1 n iv : Elt) (xs : List Elt) (tag : Elt) (p : List Elt) :
    decrypt c k0 k1 n iv xs tag = .ok p ↔
      tag = maskAt c (keySchedule c k0 k1 n iv) xs.length ∧
        p = xs.mapIdx fun i x => c.field.sub x (maskAt c (keySchedule c k0 k1 n iv) i) := by
  rw [decrypt_eq]
  split
  · next htag => simp [htag, eq_comm]
  · next htag => simp [htag]

/-- Settles O51: the loop of `Encrypt` and of `Decrypt` is the mask sequence of the trajectory. -/
theorem blocksUseMaskSequence : Obligations.BlocksUseMaskSequence :=
  fun c k0 k1 n iv xs tag => ⟨encrypt_eq c k0 k1 n iv xs, decrypt_eq c k0 k1 n iv xs tag⟩

/-! ## Masking and unmasking a list -/

/-- Two blockwise functions of which the second undoes the first on the blocks of the list. -/
theorem mapIdx_mapIdx_cancel {α β : Type} (g : Nat → α → β) (h : Nat → β → α) (xs : List α)
    (hcancel : ∀ i, ∀ x ∈ xs, h i (g i x) = x) : (xs.mapIdx g).mapIdx h = xs := by
  refine List.ext_getElem (by simp) fun i _ hi => ?_
  simp [hcancel i xs[i] (List.getElem_mem hi)]

section
variable {f : FieldSpec} {mask : Nat → Elt} (hmask : ∀ i, mask i < f.order) {xs : List Elt} (hxs : canonicalList f xs)
include hmask hxs

theorem unmask_mask : (xs.mapIdx fun i x => f.add x (mask i)).mapIdx (fun i x => f.sub x (mask i)) = xs :=
  mapIdx_mapIdx_cancel _ _ xs fun i x hx => f.add_sub_cancel_right x (mask i) (hxs x hx) (hmask i)

theorem mask_unmask : (xs.mapIdx fun i x => f.sub x (mask i)).mapIdx (fun i x => f.add x (mask i)) = xs :=
  mapIdx_mapIdx_cancel _ _ xs fun i x hx => f.sub_add_cancel x (mask i) (hxs x hx) (hmask i)

end

/-- Settles O52: `Decrypt` finds the tag at the same place of the trajectory and takes the same masks off again. -/
theorem decryptInvertsEncrypt : Obligations.DecryptInvertsEncrypt := by
  intro c k0 k1 n iv msg ct tag hc hok h0 h1 hn hiv hmsg henc
  have hmask := maskAt_lt_order hc hok (keySchedule_canonical hc h0 h1 hn hiv)
  rw [encrypt_eq] at henc
  obtain ⟨rfl, rfl⟩ := Prod.mk.inj henc
  rw [decrypt_eq_ok_iff, List.length_mapIdx, unmask_mask hmask hmsg]
  exact ⟨rfl, rfl⟩

/-! ## What the tag does not cover -/

/-- The first blocks of the message have the first blocks of the ciphertext, and as their tag the mask of the next. -/
theorem encrypt_take (c : Config) (k0 k1 n iv : Elt) (m : List Elt) {l : Nat} (hl : l ≤ m.length) :
    encrypt c k0 k1 n iv (m.take l) =
      ((encrypt c k0 k1 n iv m).1.take l, maskAt c (keySchedule c k0 k1 n iv) l) := by
  rw [encrypt_eq, encrypt_eq, List.length_take_of_le hl]
  refine Prod.ext (List.ext_getElem? fun i => ?_) rfl
  by_cases hi : i < l <;> simp [hi]

/-- A block and its ciphertext disclose the mask between them. -/
theorem sub_of_encrypt_block {c : Config} (hc : c.admissible = true) (hok : c.cfgOk = true) {k0 k1 n iv : Elt}
    (h0 : k0 < c.field.order) (h1 : k1 < c.field.order) (hn : n < c.field.order) (hiv : iv < c.field.order)
    {m : List Elt} (hm : canonicalList c.field m) {l : Nat} {x y : Elt} (hx : m[l]? = some x)
    (hy : (encrypt c k0 k1 n iv m).1[l]? = some y) :
    c.field.sub y x = maskAt c (keySchedule c k0 k1 n iv) l := by
  have hmask := maskAt_lt_order hc hok (keySchedule_canonical hc h0 h1 hn hiv) l
  obtain rfl : c.field.add x (maskAt c (keySchedule c k0 k1 n iv) l) = y := by simpa [encrypt_eq, hx] using hy
  exact Config.add_sub_cancel_left hc (hm x (List.mem_of_getElem? hx)) hmask

/-- Settles O53: (a) the tag is a mask that the length alone selects; (b) equal masks leave the differences of the
blocks, and the message determines the ciphertext; (c) the tag of the first blocks is the mask of the next one. -/
theorem tagIgnoresContent : Obligations.TagIgnoresContent := by
  intro c k0 k1 n iv m m'
  refine ⟨fun hlen => ?_, fun tag p hlen hdec => ?_, fun ct tag x y l hc hok h0 h1 hn hiv hm henc hx hy => ?_⟩
  · rw [encrypt_eq, encrypt_eq, hlen]
  · obtain ⟨rfl, rfl⟩ := (decrypt_eq_ok_iff ..).mp hdec
    refine ⟨_, (decrypt_eq_ok_iff ..).mpr ⟨by rw [hlen], rfl⟩, fun hc hok h0 h1 hn hiv hm hm' => ?_⟩
    have hmask := maskAt_lt_order hc hok (keySchedule_canonical hc h0 h1 hn hiv)
    constructor
    · intro i a a' b b' ha ha' hb hb'
      simp only [List.getElem?_mapIdx, ha, ha', Option.map_some, Option.some.injEq] at hb hb'
      subst hb hb'
      exact Config.sub_sub_sub_cancel_right hc (hm' a' (List.mem_of_getElem? ha')) (hm a (List.mem_of_getElem? ha))
        (hmask i)
    · intro hne heq
      exact hne (by rw [← mask_unmask hmask hm, heq, mask_unmask hmask hm'])
  · obtain ⟨hl, -⟩ := List.getElem?_eq_some_iff.mp hx
    have hct : (encrypt c k0 k1 n iv m).1 = ct := by rw [henc]
    have hdiff : c.field.sub y x = maskAt c (keySchedule c k0 k1 n iv) l :=
      sub_of_encrypt_block hc hok h0 h1 hn hiv hm hx (hct ▸ hy)
    have hfirst := encrypt_take c k0 k1 n iv m hl.le
    rw [hct, ← hdiff] at hfirst
    have htake : canonicalList c.field (m.take l) := fun z hz => hm z (List.mem_of_mem_take hz)
    exact ⟨by rw [hfirst],
      decryptInvertsEncrypt c k0 k1 n iv (m.take l) (ct.take l) _ hc hok h0 h1 hn hiv htake hfirst⟩

end Sys2Proof.Machine
end

section
/-! `AUTH_OK`: the one micro-step that sets it, and the `DOUT` reads of a decrypt session without it (R117, R213, R228). -/

open Sys2Proof.Claims

namespace Sys2Proof.Machine

/-- No host operation sets `AUTH_OK` (R25). -/
theorem HostEffect.authOk_eq_false {i : Instr} {s t : State} (h : HostEffect i s t) (hs : s.authOk = false) :
    t.authOk = false := by
  cases h with
  | clear => rfl
  | _ => exact hs

/-- Of the micro-steps, `FIN-commit-DEC-ok` alone sets `AUTH_OK` (R25, R197). -/
theorem TurnEffect.authOk_cases {s t : State} (h : TurnEffect s t) :
    t.authOk = s.authOk ∨
    (s.phase = .fin ∧ s.mode = .decrypt ∧ s.duplex.slot s.cfg.maskSlot = some s.tagin) := by
  cases h with
  | finDecOk hp hmode hm => exact .inr ⟨hp, hmode, hm⟩
  | _ => exact .inl rfl

/-- Outside `DONE` a pop is refused by its phase, before its own test (R140, R162). -/
theorem execRdDout_of_not_done {s : State} (hfatal : s.phase ≠ .fatal) (hdone : s.phase ≠ .done) :
    exec .rdDout s = .next (readRefused 4 s) := by
  have htest : firstReadTest (some .dout) s = some .seq := by
    simp [firstReadTest, Reg.readable, Reg.access, Reg.readPhase, hdone]
  exact (hostRead_of_firstReadTest hfatal).1 .seq htest

/-- A state with `MODE` = DECRYPT is one of a good build (R35, R143). -/
theorem State.Inv.live_of_decrypt {s : State} (hs : s.Inv) (hmode : s.mode = .decrypt) : s.Live := by
  refine hs.live (Bool.eq_true_of_not_eq_false fun hbad => ?_)
  have hreset : s.mode = .encrypt := congrArg State.mode (hs.dead hbad)
  simp [hmode] at hreset

/-- Settles O42: in a decrypt session `DONE` has `AUTH_OK` set (R25), and outside `DONE` no pop is accepted; of all that a
step can be, one commit sets `AUTH_OK`. -/
theorem unverifiedPlaintextStaysHidden : Obligations.UnverifiedPlaintextStaysHidden := by
  constructor
  · intro s t hs hmode hauth hpop
    have hlive := hs.live_of_decrypt hmode
    have hdone : s.phase ≠ .done := fun hp => by simp [hlive.authentic.mpr ⟨hp, hmode⟩] at hauth
    rw [execRdDout_of_not_done hlive.notFatal hdone] at hpop
    exact ⟨4, by simpa using hpop.symm⟩
  · intro s t hstep hs ht
    rcases step_cases s t hstep with ⟨tr, rest, i, -, -, hop⟩ | ⟨rest, hin, hturn⟩ | ⟨noise, rest, -, rfl⟩
    · simp [(exec_effect i _ t hop).authOk_eq_false hs] at ht
    · rcases (microStep_effect hturn).authOk_cases with heq | hcommit
      · exact absurd (heq.symm.trans ht) (by simp [hs])
      · exact ⟨hin.elim (fun h => .inr ⟨rest, h⟩) (fun h => .inl h.1), hcommit⟩
    · simp at ht

end Sys2Proof.Machine
end

section
/-! The outcome of a host procedure, test by test (R140, R180), and the writes it settles: the operands, the control
registers and what cannot be written (R144 to R152). -/

open Sys2Proof.Claims

namespace Sys2Proof.Machine

/-! ## The tests of a host write -/

section
variable {s : State} {r : Reg} {v : Nat} {commit : State → Result}

theorem hostWrite_fatal (q : Option Reg) (hp : s.phase = .fatal) : hostWrite q v commit s = .next s :=
  if_pos hp

theorem hostWrite_undefined (hp : s.phase ≠ .fatal) : hostWrite none v commit s = .next (raised 8 s) :=
  (hostWrite_of_firstWriteTest hp).1 .addr rfl

theorem hostWrite_readOnly (hp : s.phase ≠ .fatal) (hw : r.writable = false) :
    hostWrite (some r) v commit s = .next (raised 8 s) :=
  (hostWrite_of_firstWriteTest hp).1 .addr (by simp [firstWriteTest, hw])

theorem hostWrite_wrongPhase (hp : s.phase ≠ .fatal) (hw : r.writable = true) (hphase : r.writePhase s.phase = false) :
    hostWrite (some r) v commit s = .next (raised 4 s) :=
  (hostWrite_of_firstWriteTest hp).1 .seq (by simp [firstWriteTest, hw, hphase])

end

/-- Settles O9: four plain stores of element registers. -/
theorem operandWritesStoreAndValidate : Obligations.OperandWritesStoreAndValidate :=
  ⟨elementWrite_of_plainWrite (r := .k0) (by decide) _ _ fun _ _ => rfl,
    elementWrite_of_plainWrite (r := .k1) (by decide) _ _ fun _ _ => rfl,
    elementWrite_of_plainWrite (r := .nonce) (by decide) _ _ fun _ _ => rfl,
    elementWrite_of_plainWrite (r := .tagin) (by decide) _ _ fun _ _ => rfl⟩

/-! ## The control registers (R149, R151) -/

/-- The plain store of a control register: `FATAL`, then the phase, then the 32 bits of the word (R140, R66). -/
theorem plainWrite_control {r : Reg} (hr : r = .len ∨ r = .rcaddr) (v : Nat) (store : State → State) (s : State) :
    (s.phase = .fatal → plainWrite r v store s = .next s) ∧
    (s.phase ≠ .fatal → r.writePhase s.phase = false → plainWrite r v store s = .next (raised 4 s)) ∧
    (s.phase ≠ .fatal → r.writePhase s.phase = true → 2 ^ 32 ≤ v → plainWrite r v store s = .next (raised 6 s)) ∧
    (s.phase ≠ .fatal → r.writePhase s.phase = true → v < 2 ^ 32 → plainWrite r v store s = .next (store s)) := by
  have hreg : r.writable = true ∧ r.inRange s.cfg v = decide (v < 2 ^ 32) ∧ r.writeTest s = none := by
    rcases hr with rfl | rfl <;> exact ⟨rfl, rfl, rfl⟩
  obtain ⟨hw, hrange, htest⟩ := hreg
  refine ⟨hostWrite_fatal _, fun hp => hostWrite_wrongPhase hp hw, fun hp hphase hv => ?_, fun hp hphase hv => ?_⟩
  · have hwide : r.inRange s.cfg v = false := hrange.trans (decide_eq_false (not_lt.mpr hv))
    exact (hostWrite_of_firstWriteTest hp).1 .range (by simp [firstWriteTest, hw, hphase, hwide])
  · have hfits : r.inRange s.cfg v = true := hrange.trans (decide_eq_true hv)
    exact (hostWrite_of_firstWriteTest hp).2 (by simp [firstWriteTest, hw, hphase, hfits, htest])

/-- A word that fits 32 bits is left to its command (R180). -/
theorem command_zero {s : State} (act : State → Result) (hp : s.phase ≠ .fatal) : command 0 act s = act s := by
  simp [command, hp]

/-- The last test of a start command (R182, R183). -/
theorem exec_startOf_wrongLength {m : Mode} {s : State} (hp : s.phase = .idle) (hvalid : s.operandsValid m = true)
    (hlen : s.cnt ≠ s.len.toNat) : exec (startOf m) s = .next (raised 2 s) :=
  calc exec (startOf m) s = command 0 (startSession m) s := by cases m <;> rfl
    _ = startSession m s := command_zero _ (by simp [hp])
    _ = refuseWrite .len s := by simp [startSession, hp, hvalid, hlen]

/-- Settles O11: both stores test phase and width; a `LEN` above `MAX_BLOCKS` is above `CNT` as well. -/
theorem controlRegisterWrites : Obligations.ControlRegisterWrites := by
  intro s v
  obtain ⟨hfatal, hphase, hwide, hstore⟩ :=
    plainWrite_control (.inl rfl) v (fun s => { s with len := BitVec.ofNat 32 v }) s
  obtain ⟨hfatal', hphase', hwide', hstore'⟩ :=
    plainWrite_control (.inr rfl) v (fun s => { s with rcaddr := BitVec.ofNat 32 v }) s
  have hidle : s.phase = .idle → s.phase ≠ .fatal ∧ Reg.len.writePhase s.phase = true := fun hp => by
    simp [hp, Reg.writePhase]
  have hsettled : s.phase = .idle ∨ s.phase = .done ∨ s.phase = .fail →
      s.phase ≠ .fatal ∧ Reg.rcaddr.writePhase s.phase = true := by
    rintro (hp | hp | hp) <;> simp [hp, Reg.writePhase, Phase.settled]
  have hbusy : s.phase = .ks ∨ s.phase = .roll ∨ s.phase = .fin →
      s.phase ≠ .fatal ∧ Reg.rcaddr.writePhase s.phase = false := by
    rintro (hp | hp | hp) <;> simp [hp, Reg.writePhase, Phase.settled]
  refine ⟨fun hp => (hidle hp).elim hstore, fun hp => (hidle hp).elim hwide,
    fun hne hp => hphase hp (decide_eq_false hne), hfatal, fun hp => (hsettled hp).elim hstore',
    fun hp => (hsettled hp).elim hwide', fun hp => (hbusy hp).elim hphase', hfatal', ?_⟩
  intro t m hp hv hcnt hmax hvalid ht
  obtain rfl : { s with len := BitVec.ofNat 32 v } = t :=
    Host.Outcome.next.inj (((hidle hp).elim hstore hv).symm.trans ht)
  have hvalid' : State.operandsValid { s with len := BitVec.ofNat 32 v } m = true := by cases m <;> exact hvalid
  have hne : s.cnt ≠ (BitVec.ofNat 32 v).toNat := by
    rw [BitVec.toNat_ofNat, Nat.mod_eq_of_lt hv]
    omega
  exact exec_startOf_wrongLength (s := { s with len := BitVec.ofNat 32 v }) hp hvalid' hne

/-! ## What cannot be written (R152) -/

/-- Such a write is the host procedure for a read-only register, or for no register. -/
theorem exec_of_mem_readOnlyWrites {addr : Addr} {v : Nat} {i : Instr} (hi : i ∈ readOnlyWrites addr v) :
    ∃ (q : Option Reg) (w : Nat), (∀ r, q = some r → r.writable = false) ∧ ∀ s, exec i s = hostWrite q w .next s := by
  cases i with
  | wrUndefined a w => exact ⟨none, w, nofun, fun _ => rfl⟩
  | wrStatus w | wrErr w | wrCnt w | wrBlk w | wrTagout w | wrDout w | wrRcdata w | wrCfgField w | wrCfgW w
  | wrCfgRbig w | wrCfgRsmall w | wrCfgRcoff w | wrCfgRcdepth w | wrCfgMaxblk w | wrCfgSlot w | wrCfgMod w
  | wrCfgRefillv w => exact ⟨some _, w, by rintro r ⟨⟩; rfl, fun _ => rfl⟩
  | _ => simp [readOnlyWrites] at hi

/-- Settles O13: the test of the address comes before all others but `FATAL`. -/
theorem readOnlyWritesAreRefused : Obligations.ReadOnlyWritesAreRefused := by
  intro s addr v i hi
  obtain ⟨q, w, hq, hexec⟩ := exec_of_mem_readOnlyWrites hi
  rw [hexec]
  refine ⟨fun hp => ?_, hostWrite_fatal q⟩
  cases q with
  | none => exact hostWrite_undefined hp
  | some r => exact hostWrite_readOnly hp (hq r rfl)

end Sys2Proof.Machine
end

section
/-! The host reads: the public registers, what cannot be read, the pop and the ROM window (R155 to R166), and all that a
read can change (R142). -/

open Sys2Proof.Claims

namespace Sys2Proof.Machine

/-! ## The tests of a host read -/

section
variable {s : State} {q : Option Reg} {r : Reg} {value : State → Result}

theorem hostRead_fatal (hp : s.phase = .fatal) (hq : hiddenInFatal q = true) :
    hostRead q value s = .next (answered 0 s) :=
  if_pos ⟨hp, hq⟩

/-- The test of the address: the register cannot be read, or there is none (R140). -/
theorem hostRead_notReadable (hp : s.phase ≠ .fatal) (hq : ∀ r, q = some r → r.readable = false) :
    hostRead q value s = .next (readRefused 8 s) := by
  refine (hostRead_of_firstReadTest hp).1 .addr ?_
  cases q with
  | none => rfl
  | some r => simp [firstReadTest, hq r rfl]

theorem hostRead_wrongPhase (hp : s.phase ≠ .fatal) (hr : r.readable = true) (hphase : r.readPhase s.phase = false) :
    hostRead (some r) value s = .next (readRefused 4 s) :=
  (hostRead_of_firstReadTest hp).1 .seq (by simp [firstReadTest, hr, hphase])

theorem hostRead_ownTest {e : Exc} (hp : s.phase ≠ .fatal) (hr : r.readable = true)
    (hphase : r.readPhase s.phase = true) (htest : r.readTest s = some e) :
    hostRead (some r) value s = .next (readRefused e.code s) :=
  (hostRead_of_firstReadTest hp).1 e (by simp [firstReadTest, hr, hphase, htest])

theorem hostRead_accepted (hp : s.phase ≠ .fatal) (hr : r.readable = true) (hphase : r.readPhase s.phase = true)
    (htest : r.readTest s = none) : hostRead (some r) value s = value s :=
  (hostRead_of_firstReadTest hp).2 (by simp [firstReadTest, hr, hphase, htest])

end

/-! ## The public registers (R155 to R161, R163) -/

theorem publicRead_of_plainRead {r : Reg}
    (hr : r ∈ ([.len, .cnt, .blk, .nonce, .iv, .tagin, .tagout, .rcaddr] : List Reg)) {i : Instr} {v : State → Nat}
    (hexec : ∀ s, exec i s = plainRead r v s) : publicRead i v := by
  have hreg : hiddenInFatal (some r) = true ∧ r.readable = true ∧ (∀ p, r.readPhase p = decide (p ≠ .fatal)) ∧
      ∀ s, r.readTest s = none := by
    fin_cases hr <;> exact ⟨rfl, rfl, fun _ => rfl, fun _ => rfl⟩
  obtain ⟨hhidden, hread, hphase, htest⟩ := hreg
  intro s
  rw [hexec]
  exact ⟨fun hp => hostRead_accepted hp hread ((hphase _).trans (decide_eq_true hp)) (htest s),
    fun hp => hostRead_fatal hp hhidden⟩

/-- A register that reads 0 whatever the phase: it is 0 outside `FATAL`, and hidden there. -/
theorem exec_eq_zero_of_publicRead {i : Instr} {v : State → Nat} (h : publicRead i v) {s : State}
    (hv : s.phase ≠ .fatal → v s = 0) : exec i s = .next (answered 0 s) := by
  obtain ⟨hread, hfatal⟩ := h s
  by_cases hp : s.phase = .fatal
  · exact hfatal hp
  · exact hv hp ▸ hread hp

/-- Outside `FATAL` a state with the invariant is one of a good build (R143). -/
theorem State.Inv.live_of_not_fatal {s : State} (hs : s.Inv) (hp : s.phase ≠ .fatal) : s.Live :=
  hs.live (Bool.eq_true_of_not_eq_false fun hbad => hp ((hs.dead hbad).phase_eq hbad))

/-- No turn of the sequencer lowers `BLK` (R21, R157). -/
theorem TurnEffect.blk_le {s t : State} (h : TurnEffect s t) : s.blk ≤ t.blk := by
  cases h with
  | rollCommit => exact Nat.le_succ _
  | _ => exact le_rfl

/-- Settles O15: eight plain reads; a nonce or a tag that is not valid is 0 by the invariant. -/
theorem publicRegisterReads : Obligations.PublicRegisterReads := by
  have hnonce : publicRead .rdNonce fun s => s.nonce := publicRead_of_plainRead (r := .nonce) (by decide) fun _ => rfl
  have htagout : publicRead .rdTagout fun s => s.tagout :=
    publicRead_of_plainRead (r := .tagout) (by decide) fun _ => rfl
  exact ⟨publicRead_of_plainRead (r := .len) (by decide) fun _ => rfl,
    publicRead_of_plainRead (r := .cnt) (by decide) fun _ => rfl,
    publicRead_of_plainRead (r := .blk) (by decide) fun _ => rfl, hnonce,
    publicRead_of_plainRead (r := .iv) (by decide) fun _ => rfl,
    publicRead_of_plainRead (r := .tagin) (by decide) fun _ => rfl, htagout,
    publicRead_of_plainRead (r := .rcaddr) (by decide) fun _ => rfl,
    fun _ hs hnv => exec_eq_zero_of_publicRead hnonce fun hp => (hs.live_of_not_fatal hp).noNonce hnv,
    fun _ hs htagv => exec_eq_zero_of_publicRead htagout fun hp => (hs.live_of_not_fatal hp).noTag htagv,
    fun _ _ hturn => (microStep_effect hturn).blk_le⟩

/-! ## What cannot be read (R166) -/

/-- Such a read is the host procedure for a write-only register, or for no register. -/
theorem exec_of_mem_writeOnlyReads {addr : Addr} {i : Instr} (hi : i ∈ writeOnlyReads addr) :
    ∃ q : Option Reg, hiddenInFatal q = true ∧ (∀ r, q = some r → r.readable = false) ∧
      ∀ s, exec i s = hostRead q .next s := by
  cases i with
  | rdUndefined a => exact ⟨none, rfl, nofun, fun _ => rfl⟩
  | rdCmd | rdK0 | rdK1 | rdDin => exact ⟨some _, rfl, by rintro r ⟨⟩; rfl, fun _ => rfl⟩
  | _ => simp [writeOnlyReads] at hi

/-- Settles O17: the test of the address comes before all others but `FATAL`. -/
theorem writeOnlyReadsAreRefused : Obligations.WriteOnlyReadsAreRefused := by
  intro s addr i hi
  obtain ⟨q, hhidden, hq, hexec⟩ := exec_of_mem_writeOnlyReads hi
  rw [hexec]
  exact ⟨fun hp => hostRead_notReadable hp hq, fun hp => hostRead_fatal hp hhidden⟩

/-! ## The pop and the ROM window (R162, R164) -/

/-- Settles O18: the tests of `DOUT` in order, then the cell at `RDP`, which is within `BUF`. -/
theorem popReturnsNextElement : Obligations.PopReturnsNextElement := by
  intro s
  have hdone : s.phase = .done → s.phase ≠ .fatal ∧ Reg.dout.readPhase s.phase = true := fun hp => by
    simp [hp, Reg.readPhase]
  refine ⟨fun hp hlt hcnt => ?_, fun hp hle => ?_, fun hne hp => execRdDout_of_not_done hp hne,
    fun hp => hostRead_fatal hp rfl⟩
  · obtain ⟨hfatal, hphase⟩ := hdone hp
    exact (hostRead_accepted hfatal rfl hphase (if_neg (not_le.mpr hlt))).trans (popElement_next (hlt.trans_le hcnt))
  · obtain ⟨hfatal, hphase⟩ := hdone hp
    exact hostRead_ownTest (e := .buf) hfatal rfl hphase (if_pos hle)

/-- The ROM window inside the ROM (R46, R164). -/
theorem romWindow_next {s : State} {w : Elt} (h : s.cfg.rc[s.rcaddr.toNat]? = some w) :
    romWindow s = .next (answered w s) := by
  have hread : romRead s.cfg s.rcaddr.toNat = some w := h
  simp only [romWindow, hread]
  rfl

/-- Settles O19: the tests of `RCDATA` in order, then the word at `RCADDR`, which is within the ROM. -/
theorem romWindowReads : Obligations.RomWindowReads := by
  intro s
  refine ⟨fun hp => ?_, fun hp => ?_, fun hp => hostRead_fatal hp rfl⟩
  · have hsettled : s.phase ≠ .fatal ∧ Reg.rcdata.readPhase s.phase = true := by
      rcases hp with hp | hp | hp <;> simp [hp, Reg.readPhase, Phase.settled]
    obtain ⟨hfatal, hphase⟩ := hsettled
    refine ⟨fun w hw => ?_, fun hle => hostRead_ownTest (e := .addr) hfatal rfl hphase (if_pos hle)⟩
    obtain ⟨hlt, -⟩ := List.getElem?_eq_some_iff.mp hw
    exact (hostRead_accepted hfatal rfl hphase (if_neg (not_le.mpr hlt))).trans (romWindow_next hw)
  · have hbusy : s.phase ≠ .fatal ∧ Reg.rcdata.readPhase s.phase = false := by
      rcases hp with hp | hp | hp <;> simp [hp, Reg.readPhase, Phase.settled]
    exact hostRead_wrongPhase hbusy.1 rfl hbusy.2

/-! ## What a read can change (R142) -/

/-- The exceptions of a host transaction have the bits 2 to 8 of `ERR` (R211). -/
theorem Exc.code_bounds {e : Exc} (h0 : e ≠ .cfg) (h1 : e ≠ .auth) : 2 ≤ e.code ∧ e.code ≤ 8 := by
  cases e <;> simp_all [Exc.code]

/-- Settles O35, by the effects of an operation that are those of a read. -/
theorem readsChangeOnlyRdpOrErr : Obligations.ReadsChangeOnlyRdpOrErr := by
  intro s t i hread h
  cases exec_effect i s t h with
  | reply _ _ v => exact .inl ⟨v, rfl⟩
  | pop _ hp hlt => exact .inr (.inl ⟨rfl, hp, hlt, rfl⟩)
  | refusedRead _ _ e _ _ h0 h1 =>
    obtain ⟨hlo, hhi⟩ := Exc.code_bounds h0 h1
    exact .inr (.inr ⟨e.code, hlo, hhi, rfl⟩)
  | nothing _ _ hr | refused _ _ _ hr => simp [hr] at hread
  | start _ _ m hi => rcases hi with ⟨rfl, -⟩ | ⟨rfl, -⟩ <;> cases hread
  | _ => cases hread -- the other effects are of writes and commands

end Sys2Proof.Machine
end

section
/-! A running session against the host, and a misconfigured build: while the sequencer runs the host changes `ERR` alone
(R141), and in `FATAL` nothing changes but what a read returns (R143). -/

open Sys2Proof.Claims

namespace Sys2Proof.Machine

/-! ## Writes and commands while the sequencer runs (R141) -/

/-- The operation is refused: it answers with one bit of `ERR` that a transaction can raise (R210). -/
def Refused (r : Result) (s : State) : Prop :=
  ∃ b, 2 ≤ b ∧ b ≤ 8 ∧ r = .next (raised b s)

/-- No register but `CMD` can be written while the sequencer runs (R140). -/
theorem Reg.writePhase_of_busy (r : Reg) {p : Phase} (hb : p.busy = true) : r.writePhase p = false := by
  cases p <;> cases hb <;> cases r <;> rfl

section
variable {s : State} (hb : s.phase.busy = true)
include hb

theorem hostWrite_of_busy {r : Reg} (hw : r.writable = true) (v : Nat) (commit : State → Result) :
    hostWrite (some r) v commit s = .next (raised 4 s) :=
  hostWrite_wrongPhase (Phase.ne_of_busy hb).1 hw (r.writePhase_of_busy hb)

theorem startSession_of_busy (m : Mode) : startSession m s = .next (raised 4 s) :=
  if_pos (Phase.ne_of_busy hb).2.1

theorem clearSession_of_busy : clearSession s = .next (raised 4 s) :=
  if_pos hb

theorem command_zero_of_busy {act : State → Result} {t : State} (h : act s = .next t) : command 0 act s = .next t :=
  (command_zero act (Phase.ne_of_busy hb).1).trans h

/-- The host may not write the writable registers, start a session or clear it while one runs. -/
theorem exec_of_busy {v : Nat} {i : Instr}
    (hi : i ∈ ([.wrK0 v, .wrK1 v, .wrNonce v, .wrIv v, .wrTagin v, .wrLen v, .wrDin v, .wrRcaddr v, .cmdStartEnc 0,
      .cmdStartDec 0, .cmdClr 0] : List Instr)) : exec i s = .next (raised 4 s) := by
  cases i with
  | cmdStartEnc hi' =>
    obtain rfl : hi' = 0 := by simpa using hi
    exact command_zero_of_busy hb (startSession_of_busy hb .encrypt)
  | cmdStartDec hi' =>
    obtain rfl : hi' = 0 := by simpa using hi
    exact command_zero_of_busy hb (startSession_of_busy hb .decrypt)
  | cmdClr hi' =>
    obtain rfl : hi' = 0 := by simpa using hi
    exact command_zero_of_busy hb (clearSession_of_busy hb)
  | wrDin w => exact hostWrite_of_busy hb (r := .din) rfl w _
  | wrK0 w | wrK1 w | wrNonce w | wrIv w | wrTagin w | wrLen w | wrRcaddr w =>
    dsimp only [exec, execWrK0, execWrK1, execWrNonce, execWrIv, execWrTagin, execWrLen, execWrRcaddr]
    exact hostWrite_of_busy hb rfl w _
  | _ => simp at hi

/-- A command word of more than 32 bits is refused, another one by its command (R180). -/
theorem command_refused_of_busy (hi : Nat) (act : State → Result) (h : hi = 0 → Refused (act s) s) :
    Refused (command hi act s) s := by
  obtain ⟨hfatal, -⟩ := Phase.ne_of_busy hb
  by_cases hhi : hi = 0
  · subst hhi
    rw [command_zero act hfatal]
    exact h rfl
  · exact ⟨6, by decide, by decide, (if_neg hfatal).trans (if_pos hhi)⟩

/-- Every write and every command but `NOP` is refused while the sequencer runs. -/
theorem exec_refused_of_busy {i : Instr} (hr : isRead i = false) (hnop : i ≠ .cmdNop 0) : Refused (exec i s) s := by
  obtain ⟨hfatal, -⟩ := Phase.ne_of_busy hb
  have hseq : ∀ {r : Result}, r = .next (raised 4 s) → Refused r s := fun h => ⟨4, by decide, by decide, h⟩
  cases i with
  | cmdNop hi => exact command_refused_of_busy hb hi _ fun hhi => absurd (hhi ▸ rfl) hnop
  | cmdStartEnc hi => exact command_refused_of_busy hb hi _ fun _ => hseq (startSession_of_busy hb .encrypt)
  | cmdStartDec hi => exact command_refused_of_busy hb hi _ fun _ => hseq (startSession_of_busy hb .decrypt)
  | cmdClr hi => exact command_refused_of_busy hb hi _ fun _ => hseq (clearSession_of_busy hb)
  | cmdReserved v => exact command_refused_of_busy hb _ _ fun _ => ⟨3, by decide, by decide, rfl⟩
  | wrK0 v | wrK1 v | wrNonce v | wrIv v | wrTagin v | wrLen v | wrDin v | wrRcaddr v =>
    exact hseq (exec_of_busy hb (v := v) (by simp))
  | wrUndefined a v =>
    exact ⟨8, by decide, by decide, (readOnlyWritesAreRefused s a v _ (by simp [readOnlyWrites])).1 hfatal⟩
  | wrStatus v | wrErr v | wrCnt v | wrBlk v | wrTagout v | wrDout v | wrRcdata v | wrCfgField v | wrCfgW v
  | wrCfgRbig v | wrCfgRsmall v | wrCfgRcoff v | wrCfgRcdepth v | wrCfgMaxblk v | wrCfgSlot v | wrCfgMod v
  | wrCfgRefillv v =>
    exact ⟨8, by decide, by decide, (readOnlyWritesAreRefused s 0 v _ (by simp [readOnlyWrites])).1 hfatal⟩
  | _ => cases hr

/-- What is left of the effects of a host operation while the sequencer runs. -/
theorem HostEffect.of_busy {i : Instr} {t : State} (h : HostEffect i s t) :
    t = { s with err := t.err, rdata := t.rdata } ∧ s.err &&& t.err = s.err := by
  have hraise : ∀ m : ErrWord, s.err &&& (s.err ||| m) = s.err := fun m => by
    ext j
    simpa using Or.inl
  obtain ⟨-, hidle, hdone, hfail⟩ := Phase.ne_of_busy hb
  cases h with
  | nothing | reply => exact ⟨rfl, BitVec.and_self⟩
  | refused | refusedRead => exact ⟨rfl, hraise _⟩
  | _ => simp_all -- the other effects are of the phases `IDLE`, `DONE` and `FAIL`

end

/-! ## The sequencer does not read `ERR` (R141) -/

/-- Where the first outcome is a next state, the second is the same state but for `ERR`. -/
def AnswersUpToErr (r r' : Result) : Prop :=
  ∀ t, r = .next t → ∃ e, r' = .next { t with err := e }

section
variable (s : State) (e : ErrWord)

theorem AnswersUpToErr.next (t : State) : AnswersUpToErr (.next t) (.next { t with err := e }) := by
  rintro _ ⟨⟩
  exact ⟨e, rfl⟩

theorem roundStep_upToErr (base : Nat) : AnswersUpToErr (roundStep base s) (roundStep base { s with err := e }) := by
  intro t ht
  obtain ⟨hlt, rfl⟩ := roundStep_cases base s t ht
  exact ⟨e, roundStep_next base _ hlt⟩

theorem rollCommit_upToErr : AnswersUpToErr (rollCommit s) (rollCommit { s with err := e }) := by
  intro t ht
  obtain ⟨hlt, m, hm, rfl⟩ := rollCommit_cases s t ht
  have hread := (bufRead_eq_some { s with err := e } s.blk _).mpr ⟨hlt, rfl⟩
  have hwrite := fun v => (bufWrite_eq_some { s with err := e } _ s.blk v).mpr ⟨hlt, rfl⟩
  exact ⟨e, by simp only [rollCommit, hm, hread, hwrite]⟩

theorem finCommitEnc_upToErr : AnswersUpToErr (finCommitEnc s) (finCommitEnc { s with err := e }) := by
  intro t ht
  obtain ⟨m, hm, rfl⟩ := finCommitEnc_cases s t ht
  exact ⟨e, by simp only [finCommitEnc, hm]; rfl⟩

/-- The failing commit raises `E_AUTH` over what `ERR` holds (R198, R213). -/
theorem finCommitDecFail_upToErr : AnswersUpToErr (finCommitDecFail s) (finCommitDecFail { s with err := e }) := by
  intro t ht
  obtain ⟨⟨m, hm⟩, rfl⟩ := finCommitDecFail_cases s t ht
  exact ⟨e ||| Exc.auth.mask, by simp only [finCommitDecFail, hm]; rfl⟩

theorem microStep_upToErr : AnswersUpToErr (microStep s) (microStep { s with err := e }) := by
  have henabled : enabledStep { s with err := e } = enabledStep s := rfl
  unfold microStep
  rw [henabled]
  cases enabledStep s with
  | none => exact .next e s
  | some k =>
    cases k with
    | ksRound => exact roundStep_upToErr s e 0
    | rollRound | finRound => exact roundStep_upToErr s e s.cfg.rcOffset
    | ksExit | finCommitDecOk => exact .next e _
    | rollCommit => exact rollCommit_upToErr s e
    | finCommitEnc => exact finCommitEnc_upToErr s e
    | finCommitDecFail => exact finCommitDecFail_upToErr s e

end

/-- Settles O34: the phase test refuses what the host may write at other times, and no effect but a refusal or a reply is
of a busy phase. -/
theorem busyHostChangesOnlyErr : Obligations.BusyHostChangesOnlyErr := by
  intro s hb
  refine ⟨fun v i hi => exec_of_busy hb hi, fun v hv _ => ?_, fun i t h hr hnop => ?_,
    fun i t h => (exec_effect i s t h).of_busy hb, fun e t => microStep_upToErr s e t⟩
  · have hexec : exec (.cmdReserved v) s = command 0 (refuseWrite .cmd) s := by
      rw [← Nat.div_eq_of_lt hv]
      rfl
    exact hexec.trans (command_zero_of_busy hb rfl)
  · obtain ⟨b, hlo, hhi, hrefused⟩ := exec_refused_of_busy hb hr hnop
    exact ⟨b, hlo, hhi, Host.Outcome.next.inj (h.symm.trans hrefused)⟩

/-! ## A build with `CFG_OK` false (R143) -/

/-- The reads that `FATAL` does not hide are reads. -/
theorem isRead_of_readsInFatal {i : Instr} (h : readsInFatal i = true) : isRead i = true := by
  have hall : ∀ j ∈ ([.rdStatus, .rdErr, .rdCfgField, .rdCfgW, .rdCfgRbig, .rdCfgRsmall, .rdCfgRcoff, .rdCfgRcdepth,
      .rdCfgMaxblk, .rdCfgSlot, .rdCfgMod, .rdCfgRefillv] : List Instr), isRead j = true := by decide
  exact hall i (of_decide_eq_true h)

/-- Every other read is the host procedure for a register that `FATAL` hides, or for no register. -/
theorem exec_of_hidden_read {i : Instr} (hr : isRead i = true) (hi : readsInFatal i = false) :
    ∃ (q : Option Reg) (value : State → Result), hiddenInFatal q = true ∧ ∀ s, exec i s = hostRead q value s := by
  cases i with
  | rdUndefined a => exact ⟨none, .next, rfl, fun _ => rfl⟩
  | rdCmd | rdLen | rdCnt | rdBlk | rdK0 | rdK1 | rdNonce | rdIv | rdTagin | rdTagout | rdDin | rdDout | rdRcaddr
  | rdRcdata => exact ⟨some _, _, rfl, fun _ => rfl⟩
  | rdStatus | rdErr | rdCfgField | rdCfgW | rdCfgRbig | rdCfgRsmall | rdCfgRcoff | rdCfgRcdepth | rdCfgMaxblk
  | rdCfgSlot | rdCfgMod | rdCfgRefillv => cases hi
  | _ => cases hr

/-- What is left of the effects of a host operation in `FATAL`. -/
theorem HostEffect.of_fatal {i : Instr} {s t : State} (h : HostEffect i s t) (hp : s.phase = .fatal) :
    isRead i = false ∧ t = s ∨ isRead i = true ∧ ∃ v, t = answered v s := by
  cases h with
  | nothing _ _ hr => exact .inl ⟨hr, rfl⟩
  | reply _ _ v hr => exact .inr ⟨hr, v, rfl⟩
  | _ => simp_all -- the other effects are of other phases

/-- `STATUS` and `ERR` of a misconfigured build: those of the state after reset (R143). -/
theorem State.Dead.status_and_err {s : State} (hs : s.Dead) (hbad : s.cfg.cfgOk = false) :
    s.statusWord = 0x007 ∧ s.errWord = 0x001 := by
  have hreset : { s with buf := [], inputs := [], rdata := 0 } = State.resetOf s.cfg [] := hs
  constructor
  · calc s.statusWord = State.statusWord { s with buf := [], inputs := [], rdata := 0 } := rfl
      _ = (State.resetOf s.cfg []).statusWord := congrArg State.statusWord hreset
      _ = 0x007 := by simp [State.statusWord, hbad, Phase.code, Phase.busy, Mode.bit]
  · calc s.errWord = State.errWord { s with buf := [], inputs := [], rdata := 0 } := rfl
      _ = (State.resetOf s.cfg []).errWord := congrArg State.errWord hreset
      _ = 0x001 := by simp [State.errWord, hbad]

/-- Settles O36: `FATAL` leaves of the effects of an operation nothing and a reply, and enables no micro-step. -/
theorem fatalIsAbsorbing : Obligations.FatalIsAbsorbing := by
  intro s hs hbad
  have hp : s.phase = .fatal := (hs.dead hbad).phase_eq hbad
  obtain ⟨hstatus, herr⟩ := (hs.dead hbad).status_and_err hbad
  refine ⟨hp, fun i hr => ?_, ?_, ?_, fun i hr hi => ?_, fun i hi => ?_, configurationReads s, ?_, fun noise => ?_⟩
  · obtain ⟨t, ht⟩ := exec_answers i s hs.bounded.cnt
    rcases (exec_effect i s t ht).of_fatal hp with ⟨-, rfl⟩ | ⟨hread, -⟩
    · exact ht
    · simp [hr] at hread
  · exact hstatus ▸ plainRead_always (r := .status) rfl (fun s => s.statusWord) s
  · exact herr ▸ plainRead_always (r := .err) rfl (fun s => s.errWord) s
  · obtain ⟨q, value, hq, hexec⟩ := exec_of_hidden_read hr hi
    exact (hexec s).trans (hostRead_fatal hp hq)
  · obtain ⟨t, ht⟩ := exec_answers i s hs.bounded.cnt
    rcases (exec_effect i s t ht).of_fatal hp with ⟨hwrite, -⟩ | ⟨-, v, rfl⟩
    · simp [isRead_of_readsInFatal hi] at hwrite
    · exact ⟨v, ht⟩
  · simp [microStep, enabledStep, hp]
  · simp [hbad]

end Sys2Proof.Machine
end

section
/-! The commands: the tests of R180 and the dispatch on the opcode, then each command by its own rule (R181 to R185). -/

open Sys2Proof.Claims

namespace Sys2Proof.Machine

/-! ## The tests before the dispatch (R180) -/

theorem command_fatal (hi : Nat) (act : State → Result) {s : State} (hp : s.phase = .fatal) :
    command hi act s = .next s :=
  if_pos hp

theorem command_wide {hi : Nat} (act : State → Result) {s : State} (hp : s.phase ≠ .fatal) (hhi : hi ≠ 0) :
    command hi act s = .next (raised 6 s) :=
  (if_neg hp).trans (if_pos hhi)

/-- Every write to `CMD` takes the tests of R180, whatever command the low 32 bits select. -/
theorem exec_decodeCommand (v : Nat) :
    ∃ act : State → Result, ∀ s, exec (decodeCommand v) s = command (v / 2 ^ 32) act s := by
  unfold decodeCommand
  split
  all_goals exact ⟨_, fun _ => rfl⟩

/-- A 32-bit word is reserved where its upper bits or its opcode say so (R63, R185). -/
theorem reservedCommand_iff {v : Nat} (hv : v < 2 ^ 32) :
    reservedCommand v = true ↔ v / 2 ^ 8 ≠ 0 ∨ 0x04 ≤ v % 2 ^ 8 := by
  rw [reservedCommand, decide_eq_true_iff, Nat.mod_eq_of_lt hv]
  omega

/-! ## The reserved words (R185) -/

theorem exec_cmdReserved {v : Nat} (hv : v < 2 ^ 32) (s : State) :
    exec (.cmdReserved v) s = command 0 (refuseWrite .cmd) s := by
  rw [← Nat.div_eq_of_lt hv]
  rfl

theorem exec_cmdReserved_raises {v : Nat} (hv : v < 2 ^ 32) {s : State} (hp : s.phase ≠ .fatal) :
    exec (.cmdReserved v) s = .next (raised 3 s) :=
  (exec_cmdReserved hv s).trans (command_zero _ hp)

/-- Settles O20: all words take the first two tests; of those that fit 32 bits, the ones from 4 up are reserved and the
four below are the commands themselves. -/
theorem commandProcedure : Obligations.CommandProcedure := by
  intro s v i hdec
  obtain ⟨-, rfl⟩ := decode_eq_ok_iff.mp hdec
  rw [operation_wr_command]
  obtain ⟨act, hexec⟩ := exec_decodeCommand v
  split_ifs with hp hwide hres
  · rw [hexec, command_fatal _ _ hp]
  · rw [hexec, command_wide _ hp (by omega)]
  · have hv : v < 2 ^ 32 := not_le.mp hwide
    rw [decodeCommand_reserved ((reservedCommand_iff hv).mpr hres), exec_cmdReserved_raises hv hp]
  · have hv : v < 4 := by omega
    interval_cases v <;> rfl

/-- Settles O24: the decoder takes the word as reserved, and its refusal comes before any test of the phase but
`FATAL`. -/
theorem reservedCommandsAreRefused : Obligations.ReservedCommandsAreRefused := by
  intro s v hv hres
  have hfits : v < 2 ^ s.cfg.dw := hv.trans_le (Nat.pow_le_pow_right (by decide) (le_max_left 32 _))
  have hword : (Transaction.wr 0x00 v).operation = .cmdReserved v :=
    decodeCommand_reserved ((reservedCommand_iff hv).mpr hres)
  exact ⟨decode_eq_ok_iff.mpr ⟨hfits, hword⟩, exec_cmdReserved_raises hv, command_fatal _ _⟩

/-! ## `NOP` (R181) -/

/-- Settles O21: `NOP` has no test of its own. -/
theorem nopChangesNothing : Obligations.NopChangesNothing := by
  intro s
  by_cases hp : s.phase = .fatal
  · exact command_fatal _ _ hp
  · exact command_zero _ hp

/-! ## `START_ENC` and `START_DEC` (R182, R183) -/

theorem exec_startOf (m : Mode) {s : State} (hp : s.phase ≠ .fatal) : exec (startOf m) s = startSession m s :=
  calc exec (startOf m) s = command 0 (startSession m) s := by cases m <;> rfl
    _ = startSession m s := command_zero _ hp

/-- Both start commands take the tests phase, operands, length; they differ in the operands they need. -/
theorem startCommand_startOf (m : Mode) : startCommand (startOf m) m fun s => s.operandsValid m := by
  intro s
  have hidle : s.phase = .idle → exec (startOf m) s = startSession m s := fun hp => exec_startOf m (by simp [hp])
  refine ⟨fun hp hvalid hlen => ?accepted, fun hp hvalid => ?operands, fun hp => exec_startOf_wrongLength hp,
    fun hp hfatal => ?phase, fun hfatal => ?fatal⟩
  case accepted =>
    have hbegins : startSession m s = .next (s.beginSession m) := by simp [startSession, hp, hvalid, hlen]
    exact (hidle hp).trans hbegins
  case operands =>
    have hrefused : startSession m s = refuseWrite .opnd s := by simp [startSession, hp, hvalid]
    exact (hidle hp).trans hrefused
  case phase => exact (exec_startOf m hfatal).trans (if_pos hp)
  case fatal => cases m <;> exact command_fatal _ _ hfatal

/-- The load of a build with the default layout (R112). -/
theorem ksLayoutOf_noncePlusIv {c : Config} (h : c.ksLayout = .noncePlusIv) (k0 k1 n iv : Elt) :
    ksLayoutOf c k0 k1 n iv = ⟨c.field.add n iv, k0, k1⟩ := by
  simp [ksLayoutOf, h]

/-- Settles O22: one lemma over the mode, and the load of the default layout. -/
theorem startCommandsLoadKeySchedule : Obligations.StartCommandsLoadKeySchedule :=
  ⟨startCommand_startOf .encrypt, startCommand_startOf .decrypt, fun _ k0 k1 n iv h =>
    ksLayoutOf_noncePlusIv h k0 k1 n iv⟩

/-! ## `CLR` (R184) -/

theorem Phase.busy_iff (p : Phase) : p.busy = true ↔ p = .ks ∨ p = .roll ∨ p = .fin := by
  rw [← decide_busy_eq, decide_eq_true_iff]

theorem exec_cmdClr_accepted {s : State} (hfatal : s.phase ≠ .fatal) (hb : s.phase.busy = false) :
    exec (.cmdClr 0) s = .next s.clear :=
  (command_zero clearSession hfatal).trans (if_neg (by simp [hb]))

/-- After `CLR` all of `STATUS` is 0 (R184). -/
theorem State.clear_statusWord (s : State) : s.clear.statusWord = 0 := rfl

/-- Outside `FATAL` bit 0 of `ERR` is not set, and `CLR` clears the others (R143, R184). -/
theorem State.Inv.clear_err_eq_zero {s : State} (hs : s.Inv) (hp : s.phase ≠ .fatal) : s.clear.err = 0 := by
  have hbit : s.err.getLsbD 0 = false := (hs.live_of_not_fatal hp).noCfgError
  rw [State.clear_err]
  ext j hj
  cases j with
  | zero => simpa [← BitVec.getLsbD_eq_getElem] using hbit
  | succ j => simp

/-- Settles O23: outside the busy phases and `FATAL` the state is scrubbed. -/
theorem clearScrubsSession : Obligations.ClearScrubsSession := by
  intro s
  refine ⟨fun hp => ?settled, fun hp => ?busy, command_fatal _ _⟩
  case settled =>
    have hphase : s.phase ≠ .fatal ∧ s.phase.busy = false := by
      rcases hp with hp | hp | hp <;> simp [hp, Phase.busy]
    obtain ⟨hfatal, hb⟩ := hphase
    exact ⟨s.clear, exec_cmdClr_accepted hfatal hb, rfl, Memory.read_zeroBelow _ _,
      plainRead_always (r := .status) rfl _ s.clear, fun hs => hs.clear_err_eq_zero hfatal⟩
  case busy => exact exec_of_busy (v := 0) ((Phase.busy_iff _).mpr hp) (by simp)

end Sys2Proof.Machine
end

section
/-! The micro-steps one by one: the table of those enabled, what each does where it is enabled, and the edges of the
phase graph (R190 to R199, R201). -/

open Sys2Proof.Claims

namespace Sys2Proof.Machine

/-! ## The table (R190) -/

/-- The row of a micro-step in the table of R190: the states in which it is enabled. -/
def MicroStep.EnabledIn (s : State) : MicroStep → Prop
  | .ksRound => s.phase = .ks ∧ s.rnd < s.cfg.rBig
  | .ksExit => s.phase = .ks ∧ s.rnd = s.cfg.rBig
  | .rollRound => s.phase = .roll ∧ s.rnd < s.cfg.rSmall
  | .rollCommit => s.phase = .roll ∧ s.rnd = s.cfg.rSmall
  | .finRound => s.phase = .fin ∧ s.rnd < s.cfg.rSmall
  | .finCommitEnc => s.phase = .fin ∧ s.rnd = s.cfg.rSmall ∧ s.mode = .encrypt
  | .finCommitDecOk =>
    s.phase = .fin ∧ s.rnd = s.cfg.rSmall ∧ s.mode = .decrypt ∧ s.duplex.slot s.cfg.maskSlot = some s.tagin
  | .finCommitDecFail =>
    s.phase = .fin ∧ s.rnd = s.cfg.rSmall ∧ s.mode = .decrypt ∧ s.duplex.slot s.cfg.maskSlot ≠ some s.tagin

/-- A micro-step is enabled exactly in the states of its row. -/
theorem enabledStep_eq_some_iff {s : State} {k : MicroStep} : enabledStep s = some k ↔ k.EnabledIn s := by
  constructor
  · intro h
    unfold enabledStep at h
    (repeat' split at h) <;> cases h <;> simp_all [MicroStep.EnabledIn]
  · intro h
    cases k with
    | ksRound | rollRound | finRound =>
      obtain ⟨hp, hr⟩ := h
      simp [enabledStep, hp, hr]
    | ksExit | rollCommit =>
      obtain ⟨hp, hr⟩ := h
      simp [enabledStep, hp, hr]
    | finCommitEnc =>
      obtain ⟨hp, hr, hmode⟩ := h
      simp [enabledStep, hp, hr, hmode]
    | finCommitDecOk | finCommitDecFail =>
      obtain ⟨hp, hr, hmode, hslot⟩ := h
      simp [enabledStep, hp, hr, hmode, hslot]

theorem microStep_of_enabledIn {s : State} {k : MicroStep} (h : k.EnabledIn s) : microStep s = runStep k s := by
  simp only [microStep, enabledStep_eq_some_iff.mpr h]

theorem enabledStep_eq_none_of_not_busy {s : State} (h : s.phase.busy = false) : enabledStep s = none := by
  unfold enabledStep
  cases hp : s.phase <;> simp_all [Phase.busy]

/-- Where the sequencer does not run, its turn changes nothing (R190). -/
theorem microStep_of_not_busy {s : State} (h : s.phase.busy = false) : microStep s = .next s := by
  simp only [microStep, enabledStep_eq_none_of_not_busy h]

/-- The bounds of the round counter leave no busy state without a row (R22). -/
theorem State.Bounded.exists_enabledStep {s : State} (hs : s.Bounded) (hb : s.phase.busy = true) :
    ∃ k, enabledStep s = some k := by
  unfold enabledStep
  cases hp : s.phase with
  | ks =>
    rcases (hs.rndKs hp).lt_or_eq with hr | hr
    · exact ⟨.ksRound, by simp [hr]⟩
    · exact ⟨.ksExit, by simp [hr]⟩
  | roll =>
    rcases (hs.rndRoll hp).lt_or_eq with hr | hr
    · exact ⟨.rollRound, by simp [hr]⟩
    · exact ⟨.rollCommit, by simp [hr]⟩
  | fin =>
    rcases (hs.rndFin hp).lt_or_eq with hr | hr
    · exact ⟨.finRound, by simp [hr]⟩
    · simp only [hr, lt_irrefl, if_false, if_true]
      cases s.mode with
      | encrypt => exact ⟨.finCommitEnc, rfl⟩
      | decrypt =>
        by_cases hslot : s.duplex.slot s.cfg.maskSlot = some s.tagin
        · exact ⟨.finCommitDecOk, if_pos hslot⟩
        · exact ⟨.finCommitDecFail, if_neg hslot⟩
  | _ => simp [hp, Phase.busy] at hb

theorem roundStep_err {base : Nat} {s t : State} (h : roundStep base s = .next t) : t.err = s.err := by
  obtain ⟨-, rfl⟩ := roundStep_cases base s t h
  rfl

/-- The failing commit is the one micro-step that raises (R213). -/
theorem runStep_err {k : MicroStep} {s t : State} (h : runStep k s = .next t) :
    t.err = if k = .finCommitDecFail then s.err ||| 0x002 else s.err := by
  cases k with
  | ksRound | rollRound | finRound => exact roundStep_err h
  | ksExit | finCommitDecOk =>
    cases h
    rfl
  | rollCommit =>
    obtain ⟨-, m, -, rfl⟩ := rollCommit_cases s t h
    rfl
  | finCommitEnc =>
    obtain ⟨m, -, rfl⟩ := finCommitEnc_cases s t h
    rfl
  | finCommitDecFail =>
    obtain ⟨-, rfl⟩ := finCommitDecFail_cases s t h
    rfl

/-- Settles O25: the rows, then a busy state by the bounds of the round counter, then the phases that are in no row. -/
theorem enabledStepTable : Obligations.EnabledStepTable := by
  intro s
  refine ⟨enabledStep_eq_some_iff, enabledStep_eq_some_iff, enabledStep_eq_some_iff, enabledStep_eq_some_iff,
    enabledStep_eq_some_iff, enabledStep_eq_some_iff, enabledStep_eq_some_iff, enabledStep_eq_some_iff, fun hs hb => ?_,
    fun hb => ⟨enabledStep_eq_none_of_not_busy hb, microStep_of_not_busy hb⟩⟩
  obtain ⟨k, hk⟩ := hs.bounded.exists_enabledStep hb
  obtain ⟨t, ht⟩ := hs.microStep_answers
  have herr := runStep_err ((microStep_of_enabledIn (enabledStep_eq_some_iff.mp hk)).symm.trans ht)
  exact ⟨k, t, hk, ht, fun hne => by rw [herr, if_neg hne], fun heq => by rw [herr, if_pos heq]⟩

/-! ## Rounds and the exit of the key schedule (R191, R192, R193, R195) -/

theorem roundStep_of_romWord {base : Nat} {s : State} {rc : Elt} (h : s.cfg.rc[base + s.rnd]? = some rc) :
    roundStep base s = .next { s with duplex := roundOf s.cfg s.duplex rc, rnd := s.rnd + 1 } := by
  have hrom : romRead s.cfg (base + s.rnd) = some rc := h
  simp only [roundStep, hrom]

theorem microStep_ksRound {s : State} (hp : s.phase = .ks) (hr : s.rnd < s.cfg.rBig) :
    microStep s = roundStep 0 s :=
  microStep_of_enabledIn (k := .ksRound) ⟨hp, hr⟩

theorem microStep_smallRound {s : State} (hp : s.phase = .roll ∨ s.phase = .fin) (hr : s.rnd < s.cfg.rSmall) :
    microStep s = roundStep s.cfg.rcOffset s := by
  rcases hp with hp | hp
  · exact microStep_of_enabledIn (k := .rollRound) ⟨hp, hr⟩
  · exact microStep_of_enabledIn (k := .finRound) ⟨hp, hr⟩

theorem microStep_ksExit {s : State} (hp : s.phase = .ks) (hr : s.rnd = s.cfg.rBig) :
    microStep s = .next { s with rnd := 0, phase := if s.len.toNat = 0 then .fin else .roll } :=
  microStep_of_enabledIn (k := .ksExit) ⟨hp, hr⟩

/-- One turn after `n` others. -/
theorem microSteps_succ_of {n : Nat} {s t : State} (h : microSteps n s = .next t) :
    microSteps (n + 1) s = microStep t := by
  rw [microSteps_add n 1 s t h]
  simp only [microSteps]
  cases microStep t <;> rfl

/-- Turns that are rounds, up to some limit, compute the permutation of R91 of as many rounds. -/
theorem microSteps_rounds {s : State} {base limit : Nat} (hr : s.rnd = 0) (hrom : base + limit ≤ s.cfg.rc.length)
    (hround : ∀ d, ∀ r < limit, microStep { s with duplex := d, rnd := r } =
      roundStep base { s with duplex := d, rnd := r }) :
    ∀ n ≤ limit, microSteps n s = .next { s with duplex := perm s.cfg base n s.duplex, rnd := n } := by
  intro n hn
  induction n with
  | zero =>
    have hs : s = { s with rnd := 0 } := by rw [← hr]
    exact congrArg Host.Outcome.next hs
  | succ n ih =>
    have hlt : base + n < s.cfg.rcDepth := Nat.lt_of_lt_of_le (by omega) hrom
    rw [microSteps_succ_of (ih (by omega)), hround _ n hn, roundStep_next _ _ hlt]
    rfl

/-- `R_BIG` rounds of the key schedule compute `Big` (R191). -/
theorem microSteps_big {s : State} (hp : s.phase = .ks) (hr : s.rnd = 0) (hrom : s.cfg.rBig ≤ s.cfg.rc.length) :
    microSteps s.cfg.rBig s = .next { s with duplex := big s.cfg s.duplex, rnd := s.cfg.rBig } :=
  microSteps_rounds hr (by omega) (fun _ _ hlt => microStep_ksRound hp hlt) _ le_rfl

/-- `R_SMALL` rounds of a block or of the finalization compute `Small` (R193, R195). -/
theorem microSteps_small {s : State} (hp : s.phase = .roll ∨ s.phase = .fin) (hr : s.rnd = 0)
    (hrom : s.cfg.rcOffset + s.cfg.rSmall ≤ s.cfg.rc.length) :
    microSteps s.cfg.rSmall s = .next { s with duplex := small s.cfg s.duplex, rnd := s.cfg.rSmall } :=
  microSteps_rounds hr hrom (fun _ _ hlt => microStep_smallRound hp hlt) _ le_rfl

/-- Settles O26: each round is a row of the table, and an induction over the rounds gives the two permutations. -/
theorem roundAndExitMicroSteps : Obligations.RoundAndExitMicroSteps := by
  intro s
  refine ⟨fun rc hp hr hrc => ?_, fun rc hp hr hrc => ?_, microSteps_big, microSteps_small, fun hp hr hlen => ?_,
    fun hp hr hlen => ?_, fun hs hp => hs.bounded.blkKs hp⟩
  · rw [microStep_ksRound hp hr, roundStep_of_romWord (by rwa [Nat.zero_add])]
  · rw [microStep_smallRound hp hr, roundStep_of_romWord hrc]
  · rw [microStep_ksExit hp hr, if_pos hlen]
  · rw [microStep_ksExit hp hr, if_neg hlen]

/-! ## The commit of a block (R194) -/

section
variable {s : State} {m : Elt} (hblk : s.blk < s.cfg.maxBlocks) (hm : s.duplex.slot s.cfg.maskSlot = some m)
include hblk hm

/-- `ROLL-commit` with the mask slot a slot and `BLK` a cell of `BUF` answers. -/
theorem rollCommit_next :
    rollCommit s = .next { s with
      buf := s.buf.write s.blk (maskBlock s.cfg s.mode (s.buf.read s.blk) m),
      duplex := refillOf s.cfg s.duplex, blk := s.blk + 1, rnd := 0,
      phase := if s.blk + 1 = s.len.toNat then .fin else .roll } := by
  have hread := (bufRead_eq_some s s.blk _).mpr ⟨hblk, rfl⟩
  have hwrite := fun v => (bufWrite_eq_some s _ s.blk v).mpr ⟨hblk, rfl⟩
  simp only [rollCommit, hm, hread, hwrite]

theorem microStep_rollCommit (hp : s.phase = .roll) (hr : s.rnd = s.cfg.rSmall) :
    microStep s = .next { s with
      buf := s.buf.write s.blk (maskBlock s.cfg s.mode (s.buf.read s.blk) m),
      duplex := refillOf s.cfg s.duplex, blk := s.blk + 1, rnd := 0,
      phase := if s.blk + 1 = s.len.toNat then .fin else .roll } :=
  (microStep_of_enabledIn (k := .rollCommit) ⟨hp, hr⟩).trans (rollCommit_next hblk hm)

end

theorem Memory.read_write {m : Memory} (h : m.wf = true) (i j : Nat) (v : Elt) :
    (m.write i v).read j = if j = i then v else m.read j := by
  split
  · next heq => rw [heq, Memory.read_write_same m i v h]
  · next hne => exact Memory.read_write_other m i j v hne

/-- Settles O27: the commit is one write, at `BLK`, of the masked block. -/
theorem rollCommitMasksBlock : Obligations.RollCommitMasksBlock := by
  intro s m hp hr hwf hblk hm
  refine ⟨_, microStep_rollCommit hblk hm hp hr, rfl, Memory.wf_write _ _ _ hwf, fun hmode j => ?_, fun hmode j => ?_⟩
  · exact (Memory.read_write hwf _ _ _).trans (by rw [hmode]; rfl)
  · exact (Memory.read_write hwf _ _ _).trans (by rw [hmode]; rfl)

/-! ## The commits at the end of a session (R196 to R199) -/

section
variable {s : State} {m : Elt} (hp : s.phase = .fin) (hr : s.rnd = s.cfg.rSmall)
  (hm : s.duplex.slot s.cfg.maskSlot = some m)
include hp hr hm

theorem microStep_finCommitEnc (hmode : s.mode = .encrypt) :
    microStep s = .next { State.scrub { s with tagout := m, tagv := true } with phase := .done } := by
  rw [microStep_of_enabledIn (k := .finCommitEnc) ⟨hp, hr, hmode⟩, runStep]
  simp only [finCommitEnc, hm]

theorem microStep_finCommitDecOk (hmode : s.mode = .decrypt) (htag : m = s.tagin) :
    microStep s = .next { State.scrub { s with authOk := true } with phase := .done } :=
  microStep_of_enabledIn (k := .finCommitDecOk) ⟨hp, hr, hmode, htag ▸ hm⟩

theorem microStep_finCommitDecFail (hmode : s.mode = .decrypt) (htag : m ≠ s.tagin) :
    microStep s = .next { State.scrub (State.zeroBuf (s.raise .auth)) with phase := .fail } := by
  have hne : s.duplex.slot s.cfg.maskSlot ≠ some s.tagin := by simpa [hm] using htag
  rw [microStep_of_enabledIn (k := .finCommitDecFail) ⟨hp, hr, hmode, hne⟩, runStep]
  simp only [finCommitDecFail, hm]

end

/-- Settles O28: the commit of the mode and of the test of the tag, each with the scrub written out. -/
theorem finCommitsEndSession : Obligations.FinCommitsEndSession :=
  fun _ _ hp hr hm => ⟨microStep_finCommitEnc hp hr hm, microStep_finCommitDecOk hp hr hm, fun hmode htag =>
    ⟨_, microStep_finCommitDecFail hp hr hm hmode htag, rfl, Memory.read_zeroBelow _ _⟩⟩

/-! ## The phase graph (R201) -/

/-- The edges of the phase graph that the host takes. -/
theorem HostEffect.phase_cases {i : Instr} {s t : State} (h : HostEffect i s t) :
    t.phase = s.phase ∨ ((i = .cmdStartEnc 0 ∨ i = .cmdStartDec 0) ∧ s.phase = .idle ∧ t.phase = .ks) ∨
      (i = .cmdClr 0 ∧ (s.phase = .done ∨ s.phase = .fail) ∧ t.phase = .idle) := by
  cases h with
  | start _ _ m hi hp =>
    exact .inr (.inl ⟨hi.imp And.left And.left, hp, rfl⟩)
  | clear _ hp =>
    rcases hp with hp | hp
    · exact .inl hp.symm
    · exact .inr (.inr ⟨rfl, hp, rfl⟩)
  | _ => exact .inl rfl

/-- The edges of the phase graph that the sequencer takes, with the micro-step that takes each. -/
def TakesEdge (s t : State) : Prop :=
  (enabledStep s = some .ksExit ∧ s.phase = .ks ∧ s.len.toNat ≠ 0 ∧ t.phase = .roll) ∨
  (enabledStep s = some .ksExit ∧ s.phase = .ks ∧ s.len.toNat = 0 ∧ t.phase = .fin) ∨
  (enabledStep s = some .rollCommit ∧ s.phase = .roll ∧ s.blk + 1 = s.len.toNat ∧ t.phase = .fin) ∨
  (enabledStep s = some .finCommitEnc ∧ s.phase = .fin ∧ t.phase = .done) ∨
  (enabledStep s = some .finCommitDecOk ∧ s.phase = .fin ∧ t.phase = .done) ∨
  (enabledStep s = some .finCommitDecFail ∧ s.phase = .fin ∧ t.phase = .fail)

theorem roundStep_phase {base : Nat} {s t : State} (h : roundStep base s = .next t) : t.phase = s.phase := by
  obtain ⟨-, rfl⟩ := roundStep_cases base s t h
  rfl

theorem ksExit_takesEdge {s t : State} (hk : enabledStep s = some .ksExit) (h : ksExit s = .next t) :
    TakesEdge s t := by
  obtain ⟨hp, -⟩ := enabledStep_eq_some_iff.mp hk
  cases h
  by_cases hlen : s.len.toNat = 0
  · exact .inr (.inl ⟨hk, hp, hlen, if_pos hlen⟩)
  · exact .inl ⟨hk, hp, hlen, if_neg hlen⟩

/-- The commit of a block leaves `ROLL` after the last block alone. -/
theorem rollCommit_phase_cases {s t : State} (hk : enabledStep s = some .rollCommit) (h : rollCommit s = .next t) :
    t.phase = s.phase ∨ TakesEdge s t := by
  obtain ⟨hp, -⟩ := enabledStep_eq_some_iff.mp hk
  obtain ⟨-, m, -, rfl⟩ := rollCommit_cases s t h
  by_cases hlast : s.blk + 1 = s.len.toNat
  · exact .inr (.inr (.inr (.inl ⟨hk, hp, hlast, if_pos hlast⟩)))
  · exact .inl ((if_neg hlast).trans hp.symm)

theorem microStep_phase_cases {s t : State} (h : microStep s = .next t) : t.phase = s.phase ∨ TakesEdge s t := by
  cases hk : enabledStep s with
  | none =>
    simp only [microStep, hk] at h
    cases h
    exact .inl rfl
  | some k =>
    have hrow := enabledStep_eq_some_iff.mp hk
    replace h : runStep k s = .next t := (microStep_of_enabledIn hrow).symm.trans h
    cases k with
    | ksRound | rollRound | finRound => exact .inl (roundStep_phase h)
    | ksExit => exact .inr (ksExit_takesEdge hk h)
    | rollCommit => exact rollCommit_phase_cases hk h
    | finCommitEnc =>
      obtain ⟨hp, -⟩ := hrow
      obtain ⟨m, -, rfl⟩ := finCommitEnc_cases s t h
      exact .inr (.inr (.inr (.inr (.inl ⟨hk, hp, rfl⟩))))
    | finCommitDecOk =>
      obtain ⟨hp, -⟩ := hrow
      cases h
      exact .inr (.inr (.inr (.inr (.inr (.inl ⟨hk, hp, rfl⟩)))))
    | finCommitDecFail =>
      obtain ⟨hp, -⟩ := hrow
      obtain ⟨-, rfl⟩ := finCommitDecFail_cases s t h
      exact .inr (.inr (.inr (.inr (.inr (.inr ⟨hk, hp, rfl⟩)))))

/-- Settles O33, by what a step can be: an operation, a turn of the sequencer, or the reset event. -/
theorem phaseChangesFollowGraph : Obligations.PhaseChangesFollowGraph := by
  intro s t h
  rcases step_cases s t h with ⟨tr, rest, i, hin, hdec, hop⟩ | ⟨rest, hin, hturn⟩ | ⟨noise, rest, hin, rfl⟩
  · have hhost : hostOp s i := ⟨tr, rest, hin, hdec⟩
    rcases (exec_effect i _ t hop).phase_cases with hsame | ⟨rfl | rfl, hstart⟩ | ⟨rfl, hclear⟩
    · exact .inl hsame
    · exact .inr (.inr (.inl ⟨hhost, hstart⟩))
    · exact .inr (.inr (.inr (.inl ⟨hhost, hstart⟩)))
    · exact .inr (.inr (.inr (.inr (.inl ⟨hhost, hclear⟩))))
  · have hengine : engineTurn s := hin.elim (fun h => .inr ⟨rest, h⟩) fun h => .inl h.1
    exact (microStep_phase_cases hturn).imp_right fun hedge => .inr (.inr (.inr (.inr ⟨hengine, hedge⟩)))
  · exact .inr (.inl ⟨noise, rest, hin, rfl⟩)

end Sys2Proof.Machine
end

section
/-! A running session under any interleaving: the host changes nothing that a session is made of and a turn reads nothing
else, so the turns alone decide the state that is reached (R141, R203). -/

open Sys2Proof.Claims

namespace Sys2Proof.Machine

/-! ## What a turn reads (R141) -/

/-- Two states have the same session where the one is the other but for `ERR`, the queue and the latest read. -/
theorem sessionPart_eq_iff (s t : State) :
    s.sessionPart = t.sessionPart ↔ s = { t with err := s.err, inputs := s.inputs, rdata := s.rdata } :=
  ⟨fun h => congrArg (fun u : State => { u with err := s.err, inputs := s.inputs, rdata := s.rdata }) h,
    congrArg State.sessionPart⟩

/-- A turn reads neither the queue nor the word of the latest read, and leaves them (logs 5, 7). -/
theorem microStep_withQueueAndReply {s t : State} (q : List Event) (v : Nat) (h : microStep s = .next t) :
    microStep { s with inputs := q, rdata := v } = .next { t with inputs := q, rdata := v } := by
  have henabled : enabledStep { s with inputs := q, rdata := v } = enabledStep s := rfl
  cases hk : enabledStep s with
  | none =>
    simp only [microStep, hk] at h
    cases h
    simp only [microStep, henabled, hk]
  | some k =>
    have hrow := enabledStep_eq_some_iff.mp hk
    replace h : runStep k s = .next t := (microStep_of_enabledIn hrow).symm.trans h
    rw [microStep_of_enabledIn (enabledStep_eq_some_iff.mp (henabled.trans hk))]
    cases k with
    | ksRound | rollRound | finRound =>
      obtain ⟨hlt, rfl⟩ := roundStep_cases _ s t h
      exact roundStep_next _ _ hlt
    | ksExit | finCommitDecOk =>
      cases h
      rfl
    | rollCommit =>
      obtain ⟨hblk, m, hm, rfl⟩ := rollCommit_cases s t h
      exact rollCommit_next hblk hm
    | finCommitEnc =>
      obtain ⟨m, hm, rfl⟩ := finCommitEnc_cases s t h
      simp only [runStep, finCommitEnc, hm]
      rfl
    | finCommitDecFail =>
      obtain ⟨⟨m, hm⟩, rfl⟩ := finCommitDecFail_cases s t h
      simp only [runStep, finCommitDecFail, hm]
      rfl

/-- A turn of two states with the same session leaves the same session. -/
theorem microStep_sessionPart {s t v : State} (hsame : s.sessionPart = v.sessionPart) (h : microStep s = .next t) :
    ∃ u, microStep v = .next u ∧ t.sessionPart = u.sessionPart := by
  obtain ⟨e, he⟩ := microStep_upToErr s v.err t h
  have hv : v = { s with err := v.err, inputs := v.inputs, rdata := v.rdata } :=
    (sessionPart_eq_iff v s).mp hsame.symm
  exact ⟨_, (congrArg microStep hv).trans (microStep_withQueueAndReply v.inputs v.rdata he), rfl⟩

/-! ## The machine beside the turns alone -/

/-- The machine in `s`, with the actions `queue` to come, is where the turns alone have brought the session, in `v`. -/
structure Follows (s : State) (queue : List Event) (v : State) : Prop where
  inv : s.Inv
  inputs : s.inputs = queue
  same : s.sessionPart = v.sessionPart

theorem State.Inv.follows {s : State} (hs : s.Inv) (queue : List Event) :
    Follows { s with inputs := queue } queue s :=
  ⟨hs.withQueueAndReply queue s.rdata, rfl, rfl⟩

section
variable {s v : State} {rest : List Event}

theorem Follows.cfg_eq (h : Follows s rest v) : s.cfg = v.cfg :=
  (congrArg State.cfg h.same : s.sessionPart.cfg = v.sessionPart.cfg)

theorem Follows.phase_eq (h : Follows s rest v) : s.phase = v.phase :=
  (congrArg State.phase h.same : s.sessionPart.phase = v.sessionPart.phase)

/-- A turn moves both on. -/
theorem Follows.engine (h : Follows s (.engine :: rest) v) :
    ∃ t u, step s = .next t ∧ microStep v = .next u ∧ Follows t rest u := by
  have hinv : State.Inv { s with inputs := rest } := h.inv.withQueueAndReply rest s.rdata
  obtain ⟨t, ht⟩ := hinv.microStep_answers
  obtain ⟨-, hqueue⟩ := microStep_sameBuildAndQueue ht
  obtain ⟨u, hu, hsame⟩ := microStep_sessionPart (s := { s with inputs := rest }) h.same ht
  exact ⟨t, u, ((stepGivesSequencerItsTurn s rest).1 h.inputs).trans ht, hu, hinv.of_turn ht, hqueue, hsame⟩

/-- A host transaction of the port leaves the session where it is while it runs (R141). -/
theorem Follows.host {tr : Transaction} (h : Follows s (.host tr :: rest) v) (hb : v.phase.busy = true)
    (hfit : tr.data < 2 ^ v.cfg.dw) : ∃ t, step s = .next t ∧ Follows t rest v := by
  have hinv : State.Inv { s with inputs := rest } := h.inv.withQueueAndReply rest s.rdata
  have hdec : decode s.cfg.dw tr = .ok tr.operation := decode_eq_ok_iff.mpr ⟨h.cfg_eq ▸ hfit, rfl⟩
  obtain ⟨t, ht⟩ := exec_answers tr.operation _ hinv.bounded.cnt
  have heff := exec_effect _ _ t ht
  obtain ⟨-, hqueue⟩ := heff.sameBuildAndQueue
  obtain ⟨hsame, -⟩ := heff.of_busy (h.phase_eq ▸ hb)
  exact ⟨t, (stepRunsDecodedTransaction s tr rest _ h.inputs hdec).trans ht, hinv.of_hostEffect heff, hqueue,
    (congrArg State.sessionPart hsame).trans h.same⟩

end

/-! ## Any interleaving (R203) -/

theorem turns_engine_cons (es : List Event) : turns (.engine :: es) = turns es + 1 := by
  simp [turns]

theorem turns_host_cons (tr : Transaction) (es : List Event) : turns (.host tr :: es) = turns es := by
  simp [turns]

theorem microSteps_of_microStep {n : Nat} {s t : State} (h : microStep s = .next t) :
    microSteps (n + 1) s = microSteps n t := by
  simp only [microSteps, h]

/-- The actions of a running session take the machine where their turns alone take the session. -/
theorem Follows.run {s v : State} {pre rest : List Event} (h : Follows s (pre ++ rest) v)
    (hfit : ∀ e ∈ pre, e.sessionAction v.cfg.dw = true)
    (hbusy : ∀ j ≤ turns pre, ∃ u, microSteps j v = .next u ∧ u.phase.busy = true) :
    ∃ t u, stepN pre.length s = .next t ∧ microSteps (turns pre) v = .next u ∧ Follows t rest u := by
  induction pre generalizing s v with
  | nil => exact ⟨s, v, rfl, rfl, h⟩
  | cons e pre ih =>
    obtain ⟨he, hpre⟩ := List.forall_mem_cons.mp hfit
    cases e with
    | engine =>
      obtain ⟨t, v', ht, hv', hfollows⟩ := h.engine
      obtain ⟨hcfg, -⟩ := microStep_sameBuildAndQueue hv'
      rw [turns_engine_cons] at hbusy ⊢
      have hbusy' : ∀ j ≤ turns pre, ∃ u, microSteps j v' = .next u ∧ u.phase.busy = true := fun j hj =>
        microSteps_of_microStep hv' ▸ hbusy (j + 1) (Nat.succ_le_succ hj)
      obtain ⟨w, u, hw, hu, hlast⟩ := ih hfollows (hcfg ▸ hpre) hbusy'
      exact ⟨w, u, (stepN_of_step _ s t ht).trans hw, (microSteps_of_microStep hv').trans hu, hlast⟩
    | host tr =>
      rw [turns_host_cons] at hbusy ⊢
      obtain ⟨v', hv', hb⟩ := hbusy 0 (Nat.zero_le _)
      cases hv'
      obtain ⟨t, ht, hfollows⟩ := h.host hb (of_decide_eq_true he)
      obtain ⟨w, u, hw, hu, hlast⟩ := ih hfollows hpre hbusy
      exact ⟨w, u, (stepN_of_step _ s t ht).trans hw, hu, hlast⟩
    | reset noise => cases he

/-- One more turn after those, which may be the one that ends the session. -/
theorem Follows.run_then_turn {s v : State} {pre rest : List Event} (h : Follows s (pre ++ [Event.engine] ++ rest) v)
    (hfit : ∀ e ∈ pre, e.sessionAction v.cfg.dw = true)
    (hbusy : ∀ j ≤ turns pre, ∃ u, microSteps j v = .next u ∧ u.phase.busy = true) :
    ∃ t u, stepN (pre ++ [Event.engine]).length s = .next t ∧ microSteps (turns pre + 1) v = .next u ∧
      Follows t rest u := by
  rw [List.append_assoc] at h
  obtain ⟨s', v', hs', hv', hfollows⟩ := h.run hfit hbusy
  obtain ⟨t, u, ht, hu, hlast⟩ := hfollows.engine
  refine ⟨t, u, ?_, ?_, hlast⟩
  · rw [List.length_append, stepN_add _ _ _ _ hs']
    exact stepN_of_step 0 s' t ht
  · rw [microSteps_succ_of hv', hu]

/-- Settles O58: the machine follows the turns alone through any interleaving. -/
theorem sessionIgnoresInterleaving : Obligations.SessionIgnoresInterleaving := by
  intro s pre hs hfit hbusy
  obtain ⟨t, u, ht, hu, hfollows⟩ := (hs.follows (pre ++ [.engine] ++ s.inputs)).run_then_turn hfit hbusy
  exact ⟨t, u, ht, hu, hfollows.same⟩

end Sys2Proof.Machine
end

section
/-! A whole session: the state at the start of each block and at the last commit, by the pure functions, and from it what
a session on the registers computes (R111, R115 to R117, R200, R202). -/

open Sys2Proof.Claims

namespace Sys2Proof.Machine

/-! ## The blocks of `BUF` -/

/-- The contents of `BUF` after the commits of the first `n` blocks, `ks` being the DuplexState the first block starts
from (R194). -/
def maskedBuf (c : Config) (mode : Mode) (ks : Duplex) (buf : Memory) : Nat → Memory
  | 0 => buf
  | n + 1 =>
    (maskedBuf c mode ks buf n).write n (maskBlock c mode ((maskedBuf c mode ks buf n).read n) (maskAt c ks n))

section
variable (c : Config) (mode : Mode) (ks : Duplex) {buf : Memory} (hwf : buf.wf = true)
include hwf

theorem maskedBuf_wf (n : Nat) : (maskedBuf c mode ks buf n).wf = true := by
  induction n with
  | zero => exact hwf
  | succ n ih => exact Memory.wf_write _ _ _ ih

/-- The committed blocks are masked, each with its own mask; the other cells are as they were. -/
theorem read_maskedBuf (n j : Nat) :
    (maskedBuf c mode ks buf n).read j =
      if j < n then maskBlock c mode (buf.read j) (maskAt c ks j) else buf.read j := by
  induction n generalizing j with
  | zero => rfl
  | succ n ih =>
    rw [maskedBuf, Memory.read_write (maskedBuf_wf c mode ks hwf n), ih, ih, if_neg (lt_irrefl n)]
    rcases lt_trichotomy j n with hlt | rfl | hgt
    · rw [if_neg hlt.ne, if_pos hlt, if_pos (by omega)]
    · rw [if_pos rfl, if_pos (by omega)]
    · rw [if_neg hgt.ne', if_neg (by omega), if_neg (by omega)]

/-- The sequence after all its blocks are committed. -/
theorem sequence_maskedBuf (n : Nat) :
    (List.range n).map (maskedBuf c mode ks buf n).read =
      ((List.range n).map buf.read).mapIdx fun i x => maskBlock c mode x (maskAt c ks i) := by
  refine List.ext_getElem (by simp) fun i hi _ => ?_
  have hin : i < n := by simpa using hi
  simp [read_maskedBuf c mode ks hwf, hin]

end

/-! ## The states of a session (R200) -/

/-- The session `b`, which is at the start of its key schedule, at the start of block `n`, or of the finalization after
the last block (R192, R194). -/
def State.atBlock (b : State) (n : Nat) : State :=
  { b with
    duplex := trajectory b.cfg (big b.cfg b.duplex) n, buf := maskedBuf b.cfg b.mode (big b.cfg b.duplex) b.buf n,
    blk := n, rnd := 0, phase := if n = b.len.toNat then .fin else .roll }

/-- The session `b` at its last commit. -/
def State.atCommit (b : State) : State :=
  { b.atBlock b.len.toNat with
    duplex := small b.cfg (trajectory b.cfg (big b.cfg b.duplex) b.len.toNat), rnd := b.cfg.rSmall, phase := .fin }

section
variable {b : State} (hok : b.cfg.cfgOk = true)
include hok

theorem microSteps_keySchedule (hp : b.phase = .ks) (hr : b.rnd = 0) (hblk : b.blk = 0) :
    microSteps (b.cfg.rBig + 1) b = .next (b.atBlock 0) := by
  obtain ⟨hrom, -⟩ := rounds_within_rom hok
  have hexit := microStep_ksExit (s := { b with duplex := big b.cfg b.duplex, rnd := b.cfg.rBig }) hp rfl
  rw [microSteps_succ_of (microSteps_big hp hr hrom), hexit]
  simp only [State.atBlock, trajectory, maskedBuf, hblk, eq_comm]

theorem microSteps_block {n : Nat} (hn : n < b.len.toNat) (hlen : b.len.toNat ≤ b.cfg.maxBlocks) :
    microSteps (b.cfg.rSmall + 1) (b.atBlock n) = .next (b.atBlock (n + 1)) := by
  obtain ⟨-, hrom⟩ := rounds_within_rom hok
  have hp : (b.atBlock n).phase = .roll := if_neg hn.ne
  have hrounds := microSteps_small (s := b.atBlock n) (.inl hp) rfl hrom
  have hcommit := microStep_rollCommit
    (s := { b.atBlock n with duplex := small b.cfg (b.atBlock n).duplex, rnd := b.cfg.rSmall })
    (hn.trans_le hlen) (slot_of_cfgOk b.cfg _ hok) hp rfl
  exact (microSteps_succ_of hrounds).trans hcommit

theorem microSteps_blocks (hlen : b.len.toNat ≤ b.cfg.maxBlocks) {n : Nat} (hn : n ≤ b.len.toNat) :
    microSteps (n * (b.cfg.rSmall + 1)) (b.atBlock 0) = .next (b.atBlock n) := by
  induction n with
  | zero => rw [Nat.zero_mul, microSteps]
  | succ n ih => rw [Nat.succ_mul, microSteps_add _ _ _ _ (ih (by omega)), microSteps_block hok hn hlen]

theorem microSteps_finalization :
    microSteps b.cfg.rSmall (b.atBlock b.len.toNat) = .next b.atCommit := by
  obtain ⟨-, hrom⟩ := rounds_within_rom hok
  have hp : (b.atBlock b.len.toNat).phase = .fin := if_pos rfl
  refine (microSteps_small (.inr hp) rfl hrom).trans ?_
  simp only [State.atCommit, hp]
  rfl

/-- All turns of a session but the last take it to its last commit (R200). -/
theorem microSteps_atCommit (hp : b.phase = .ks) (hr : b.rnd = 0) (hblk : b.blk = 0)
    (hlen : b.len.toNat ≤ b.cfg.maxBlocks) {n : Nat} (hn : n + 1 = nSteps b.cfg b.len.toNat) :
    microSteps n b = .next b.atCommit := by
  obtain rfl : n = b.cfg.rBig + 1 + b.len.toNat * (b.cfg.rSmall + 1) + b.cfg.rSmall := by
    rw [nSteps] at hn
    omega
  have hblocks := (microSteps_add _ _ _ _ (microSteps_keySchedule hok hp hr hblk)).trans
    (microSteps_blocks hok hlen le_rfl)
  rw [microSteps_add _ _ _ _ hblocks, microSteps_finalization hok]

end

/-! ## The session of a run -/

/-- Where the sequencer does not run, no number of turns changes anything (R190). -/
theorem microSteps_of_not_busy {s : State} (h : s.phase.busy = false) (n : Nat) : microSteps n s = .next s := by
  induction n with
  | zero => rfl
  | succ n ih => rw [microSteps_of_microStep (microStep_of_not_busy h), ih]

/-- A session that is busy after `n` turns has been busy throughout. -/
theorem microSteps_busy_of_le {n j : Nat} {s u : State} (h : microSteps n s = .next u) (hb : u.phase.busy = true)
    (hj : j ≤ n) : ∃ v, microSteps j s = .next v ∧ v.phase.busy = true := by
  induction j generalizing n s with
  | zero =>
    refine ⟨s, rfl, Bool.eq_true_of_not_eq_false fun hidle => ?_⟩
    obtain rfl : s = u := Host.Outcome.next.inj ((microSteps_of_not_busy hidle n).symm.trans h)
    simp [hidle] at hb
  | succ j ih =>
    obtain ⟨n, rfl⟩ : ∃ k, n = k + 1 := ⟨n - 1, by omega⟩
    cases hs : microStep s with
    | next t =>
      rw [microSteps_of_microStep hs] at h ⊢
      exact ih h (Nat.le_of_succ_le_succ hj)
    | fault r | refused r => simp [microSteps, hs] at h

/-- The word of the start command of a mode (R64). -/
def startWord : Mode → Nat
  | .encrypt => 0x01
  | .decrypt => 0x02

theorem decode_startWord (c : Config) (m : Mode) :
    decode c.dw (.wr Reg.cmd.addr (startWord m)) = .ok (startOf m) := by
  have hfits : startWord m < 2 ^ 32 := by cases m <;> decide
  refine decode_eq_ok_iff.mpr ⟨hfits.trans_le (Nat.pow_le_pow_right (by decide) (le_max_left 32 _)), ?_⟩
  cases m <;> rfl

/-- A session of the machine, with its start command and any interleaving, follows the turns alone to the last commit and
through it (R202, R203). -/
theorem run_session {s : State} {m : Mode} {pre : List Event} (hs : s.Inv) (hok : s.cfg.cfgOk = true)
    (hp : s.phase = .idle) (hvalid : s.operandsValid m = true) (hcnt : s.cnt = s.len.toNat)
    (hfit : ∀ e ∈ pre, e.sessionAction s.cfg.dw = true) (hturns : turns pre + 1 = nSteps s.cfg s.cnt) :
    ∃ t u, runs s (writeEvent .cmd (startWord m) :: pre ++ [.engine]) t ∧
      microStep (s.beginSession m).atCommit = .next u ∧ Follows t s.inputs u := by
  have hlen : s.len.toNat ≤ s.cfg.maxBlocks := hcnt ▸ hs.bounded.cnt
  have hstart : ∀ q, exec (startOf m) { s with inputs := q } = .next ({ s with inputs := q }.beginSession m) :=
    fun q => (startCommand_startOf m _).1 hp hvalid hcnt
  have hinv : (s.beginSession m).Inv := hs.of_hostEffect (exec_effect _ _ _ (hstart s.inputs))
  have hcommit : microSteps (turns pre) (s.beginSession m) = .next (s.beginSession m).atCommit :=
    microSteps_atCommit (b := s.beginSession m) hok rfl rfl rfl hlen (hcnt ▸ hturns)
  have hbusy : ∀ j ≤ turns pre, ∃ u, microSteps j (s.beginSession m) = .next u ∧ u.phase.busy = true :=
    fun j hj => microSteps_busy_of_le hcommit rfl hj
  obtain ⟨t, u, ht, hu, hfollows⟩ := Follows.run_then_turn (v := s.beginSession m)
    (hinv.follows (pre ++ [.engine] ++ s.inputs)) hfit hbusy
  refine ⟨t, u, ?_, (microSteps_succ_of hcommit).symm.trans hu, hfollows⟩
  exact (stepN_of_step _ _ _ ((step_of_host s _ _ _ (decode_startWord s.cfg m)).trans (hstart _))).trans ht

/-! ## What a session computes (R202) -/

/-- The fields of the machine's state that the turns alone decide, and the queue (R203). -/
theorem Follows.eq_up_to {t u : State} {queue : List Event} (h : Follows t queue u) (buf : Memory) (e : ErrWord)
    (v : Nat) :
    { t with buf := buf, err := e, rdata := v } = { u with buf := buf, err := e, inputs := queue, rdata := v } := by
  have heq := congrArg (fun w : State => { w with buf := buf, err := e, inputs := t.inputs, rdata := v }) h.same
  rw [← h.inputs]
  exact heq

theorem Follows.buf_eq {t u : State} {queue : List Event} (h : Follows t queue u) : t.buf = u.buf :=
  (congrArg State.buf h.same : t.sessionPart.buf = u.sessionPart.buf)

/-- The sequence and the other cells of `BUF` at the last commit of an accepted session. -/
theorem sequence_atCommit {s : State} (m : Mode) (hwf : s.buf.wf = true) (hcnt : s.cnt = s.len.toNat) {t : State}
    (ht : t.buf = (s.beginSession m).atCommit.buf) :
    t.sequence s.cnt = (s.sequence s.cnt).mapIdx
        (fun i x => maskBlock s.cfg m x (maskAt s.cfg (keySchedule s.cfg s.k0 s.k1 s.nonce s.iv) i)) ∧
      ∀ j, s.cnt ≤ j → t.buf.read j = s.buf.read j := by
  have hbuf : t.buf = maskedBuf s.cfg m (keySchedule s.cfg s.k0 s.k1 s.nonce s.iv) s.buf s.cnt := by
    rw [ht, hcnt]
    rfl
  refine ⟨?_, fun j hj => ?_⟩
  · rw [State.sequence, hbuf]
    exact sequence_maskedBuf _ _ _ hwf _
  · rw [hbuf, read_maskedBuf _ _ _ hwf, if_neg (not_lt.mpr hj)]

/-- The mask slot at the last commit holds the mask after those of the blocks, the tag (R115, R116). -/
theorem slot_atCommit {s : State} (m : Mode) (hok : s.cfg.cfgOk = true) (hcnt : s.cnt = s.len.toNat) :
    (s.beginSession m).atCommit.duplex.slot s.cfg.maskSlot =
      some (maskAt s.cfg (keySchedule s.cfg s.k0 s.k1 s.nonce s.iv) (s.sequence s.cnt).length) := by
  have hlen : (s.sequence s.cnt).length = s.len.toNat := by simp [State.sequence, hcnt]
  rw [hlen]
  exact slot_of_cfgOk s.cfg _ hok

/-- The state registers after a session are those of its last commit, scrubbed, `BLK` being `LEN` (R199). -/
theorem ended_eq {s : State} (hcnt : s.cnt = s.len.toNat) (m : Mode) (p : Phase) :
    ended s m p = { (s.beginSession m).atCommit.scrub with phase := p, buf := s.buf } :=
  congrArg (fun n : Nat => { ended s m p with blk := n }) hcnt

/-- What the invariant says of a machine that follows the turns through the failing commit (R35 g). -/
theorem Follows.failed {t v : State} {queue : List Event}
    (h : Follows t queue { State.scrub (State.zeroBuf (v.raise .auth)) with phase := .fail })
    (hok : v.cfg.cfgOk = true) : t.err.getLsbD 1 = true ∧ ∀ j, t.buf.read j = 0 := by
  have hcfg : t.cfg = v.cfg := h.cfg_eq
  obtain ⟨-, herr, -, hzero⟩ := (h.inv.live (hcfg ▸ hok)).failed h.phase_eq
  exact ⟨herr, hzero⟩

/-- Settles O56: the last turn is the commit that stores the tag. -/
theorem encryptSessionComputesEncrypt : Obligations.EncryptSessionComputesEncrypt := by
  intro s pre ct tag hs hok hp hk0 hk1 hn hcnt hfit hturns henc
  have hvalid : s.operandsValid .encrypt = true := by simp [State.operandsValid, hk0, hk1, hn]
  obtain ⟨t, u, hrun, hu, hfollows⟩ := run_session hs hok hp hvalid hcnt hfit hturns
  rw [encrypt_eq] at henc
  obtain ⟨rfl, rfl⟩ := Prod.mk.inj henc
  rw [microStep_finCommitEnc rfl rfl (slot_atCommit .encrypt hok hcnt) rfl] at hu
  cases hu
  refine ⟨t, hrun, ?_, sequence_atCommit .encrypt hs.canonical.bufForm hcnt hfollows.buf_eq⟩
  rw [hfollows.eq_up_to, ended_eq hcnt]
  rfl

/-- Settles O57: the last turn is the commit that the comparison with `TAGIN` selects, and the invariant says what a
state in `FAIL` holds. -/
theorem decryptSessionComputesDecrypt : Obligations.DecryptSessionComputesDecrypt := by
  intro s pre hs hok hp hk0 hk1 hn htv hcnt hfit hturns
  have hvalid : s.operandsValid .decrypt = true := by simp [State.operandsValid, hk0, hk1, hn, htv]
  obtain ⟨t, u, hrun, hu, hfollows⟩ := run_session hs hok hp hvalid hcnt hfit hturns
  have hslot := slot_atCommit .decrypt hok hcnt
  refine ⟨t, hrun, fun msg hdec => ?_, fun hdec => ?_⟩
  · obtain ⟨htag, rfl⟩ := (decrypt_eq_ok_iff ..).mp hdec
    rw [microStep_finCommitDecOk rfl rfl hslot rfl htag.symm] at hu
    cases hu
    refine ⟨?_, sequence_atCommit .decrypt hs.canonical.bufForm hcnt hfollows.buf_eq⟩
    rw [hfollows.eq_up_to, ended_eq hcnt]
    rfl
  · have htag : s.tagin ≠ maskAt s.cfg (keySchedule s.cfg s.k0 s.k1 s.nonce s.iv) (s.sequence s.cnt).length :=
      fun htag => by simp [decrypt_eq, htag] at hdec
    rw [microStep_finCommitDecFail rfl rfl hslot rfl htag.symm] at hu
    cases hu
    refine ⟨?_, hfollows.failed hok⟩
    rw [hfollows.eq_up_to, ended_eq hcnt]
    rfl

end Sys2Proof.Machine
end

section
/-! The verdict of the tests on a host transaction (R140, R180): two states that agree in the registers these look at
refuse the same transactions, with the same exceptions. -/

namespace Sys2Proof.Machine

/-- The two states agree in all that the tests of R140 and R180 look at. -/
structure SameTests (s s' : State) : Prop where
  cfg : s'.cfg = s.cfg
  phase : s'.phase = s.phase
  len : s'.len = s.len
  cnt : s'.cnt = s.cnt
  rdp : s'.rdp = s.rdp
  rcaddr : s'.rcaddr = s.rcaddr
  operandsValid : ∀ m, s'.operandsValid m = s.operandsValid m

/-- No test reads a secret (R228). -/
theorem State.sameTests_publicPart (s : State) : SameTests s s.publicPart :=
  ⟨rfl, rfl, rfl, rfl, rfl, rfl, fun m => by cases m <;> rfl⟩

/-- No test reads `ERR` (R141). -/
theorem State.sameTests_err (s : State) (e : ErrWord) : SameTests s { s with err := e } :=
  ⟨rfl, rfl, rfl, rfl, rfl, rfl, fun m => by cases m <;> rfl⟩

/-- What a transaction without effect leaves: in `FATAL` a write changes nothing and a read returns 0 (R143). -/
def ignored : Bool → State → State
  | true, s => s.reply 0
  | false, s => s

/-- What a refused transaction leaves: a read returns 0 (R210). -/
def refusal : Bool → Exc → State → State
  | true, e, s => (s.raise e).reply 0
  | false, e, s => s.raise e

/-- The results `q` of `s` and `q'` of `s'` are of one kind: both transactions without effect, both refused with one
exception, or both accepted, and then they are `r` and `r'`. -/
inductive SameVerdict (read : Bool) (s s' : State) (r r' : Result) : Result → Result → Prop where
  | ignored : SameVerdict read s s' r r' (.next (ignored read s)) (.next (ignored read s'))
  | refused (e : Exc) (h0 : e ≠ .cfg) (h1 : e ≠ .auth) :
      SameVerdict read s s' r r' (.next (refusal read e s)) (.next (refusal read e s'))
  | accepted : SameVerdict read s s' r r' r r'

/-! ## The tests -/

/-- `E_CFG` and `E_AUTH` are raised by reset and by the sequencer, by no test of a write (R212, R213). -/
theorem firstWriteTest_ne {q : Option Reg} {v : Nat} {s : State} {e : Exc} (h : firstWriteTest q v s = some e) :
    e ≠ .cfg ∧ e ≠ .auth := by
  unfold firstWriteTest Reg.writeTest at h
  (repeat' split at h) <;> cases h <;> decide

theorem firstReadTest_ne {q : Option Reg} {s : State} {e : Exc} (h : firstReadTest q s = some e) :
    e ≠ .cfg ∧ e ≠ .auth := by
  unfold firstReadTest Reg.readTest at h
  (repeat' split at h) <;> cases h <;> decide

/-- A register that can be read in `FATAL` passes all the tests there (R140, R143). -/
theorem hostRead_of_alwaysReadable {r : Reg} (h : r.alwaysReadable = true) (value : State → Result) (s : State) :
    hostRead (some r) value s = value s := by
  obtain ⟨hread, hphase, htest⟩ : r.readable = true ∧ r.readPhase s.phase = true ∧ r.readTest s = none := by
    cases r <;> cases h <;> exact ⟨rfl, rfl, rfl⟩
  simp [hostRead, hiddenInFatal, h, hread, hphase, htest]

section
variable {s s' : State} (h : SameTests s s')
include h

theorem SameTests.firstWriteTest_eq (q : Option Reg) (v : Nat) : firstWriteTest q v s' = firstWriteTest q v s := by
  cases q with
  | none => rfl
  | some r => simp only [firstWriteTest, Reg.writeTest, h.cfg, h.phase, h.cnt]

theorem SameTests.firstReadTest_eq (q : Option Reg) : firstReadTest q s' = firstReadTest q s := by
  cases q with
  | none => rfl
  | some r => simp only [firstReadTest, Reg.readTest, h.cfg, h.phase, h.cnt, h.rdp, h.rcaddr]

/-! ## The host procedures (R140, R180) -/

theorem hostWrite_sameVerdict (q : Option Reg) (v : Nat) (commit : State → Result) :
    SameVerdict false s s' (commit s) (commit s') (hostWrite q v commit s) (hostWrite q v commit s') := by
  by_cases hp : s.phase = .fatal
  · rw [hostWrite_fatal q hp, hostWrite_fatal q (h.phase.trans hp)]
    exact .ignored
  obtain ⟨hrefuse, hpass⟩ := hostWrite_of_firstWriteTest (q := q) (v := v) (commit := commit) hp
  obtain ⟨hrefuse', hpass'⟩ := hostWrite_of_firstWriteTest (q := q) (v := v) (commit := commit) (h.phase.trans_ne hp)
  have htest' := h.firstWriteTest_eq q v
  cases htest : firstWriteTest q v s with
  | none =>
    rw [hpass htest, hpass' (htest'.trans htest)]
    exact .accepted
  | some e =>
    obtain ⟨h0, h1⟩ := firstWriteTest_ne htest
    rw [hrefuse e htest, hrefuse' e (htest'.trans htest)]
    exact .refused e h0 h1

theorem hostRead_sameVerdict (q : Option Reg) (value : State → Result) :
    SameVerdict true s s' (value s) (value s') (hostRead q value s) (hostRead q value s') := by
  by_cases hp : s.phase = .fatal
  · cases hq : hiddenInFatal q with
    | true =>
      rw [hostRead_fatal hp hq, hostRead_fatal (h.phase.trans hp) hq]
      exact .ignored
    | false =>
      cases q with
      | none => cases hq
      | some r =>
        have hr : r.alwaysReadable = true := by simpa [hiddenInFatal] using hq
        rw [hostRead_of_alwaysReadable hr, hostRead_of_alwaysReadable hr]
        exact .accepted
  obtain ⟨hrefuse, hpass⟩ := hostRead_of_firstReadTest (q := q) (value := value) hp
  obtain ⟨hrefuse', hpass'⟩ := hostRead_of_firstReadTest (q := q) (value := value) (h.phase.trans_ne hp)
  have htest' := h.firstReadTest_eq q
  cases htest : firstReadTest q s with
  | none =>
    rw [hpass htest, hpass' (htest'.trans htest)]
    exact .accepted
  | some e =>
    obtain ⟨h0, h1⟩ := firstReadTest_ne htest
    rw [hrefuse e htest, hrefuse' e (htest'.trans htest)]
    exact .refused e h0 h1

theorem command_sameVerdict (hi : Nat) {act : State → Result} {r r' : Result}
    (hact : SameVerdict false s s' r r' (act s) (act s')) :
    SameVerdict false s s' r r' (command hi act s) (command hi act s') := by
  unfold command
  rw [h.phase]
  split
  · exact .ignored
  split
  · exact .refused .range (by decide) (by decide)
  · exact hact

theorem startSession_sameVerdict (m : Mode) :
    SameVerdict false s s' (.next (s.beginSession m)) (.next (s'.beginSession m)) (startSession m s)
      (startSession m s') := by
  unfold startSession
  rw [h.phase, h.operandsValid, h.cnt, h.len]
  split
  · exact .refused .seq (by decide) (by decide)
  split
  · exact .refused .opnd (by decide) (by decide)
  split
  · exact .refused .len (by decide) (by decide)
  · exact .accepted

theorem clearSession_sameVerdict :
    SameVerdict false s s' (.next s.clear) (.next s'.clear) (clearSession s) (clearSession s') := by
  unfold clearSession
  rw [h.phase]
  split
  · exact .refused .seq (by decide) (by decide)
  · exact .accepted

end

end Sys2Proof.Machine
end

section
/-! What a host operation discloses is a function of the public part of the state (R228 (a), (b), (d), (e)). -/

open Sys2Proof.Claims

namespace Sys2Proof.Machine

/-! ## The public part -/

/-- The public part has no secrets left. -/
theorem State.publicPart_publicPart (s : State) : s.publicPart.publicPart = s.publicPart := by
  by_cases hp : s.phase = .done <;> simp [State.publicPart, hp]

theorem State.publicPart_raise (s : State) (e : Exc) : (s.raise e).publicPart = s.publicPart.raise e := rfl

theorem State.publicPart_reply (s : State) (v : Nat) : (s.reply v).publicPart = s.publicPart.reply v := rfl

/-- What an outcome tells the host: the public part of the next state, reply included, or why there is none. -/
def disclosed : Result → Result
  | .next t => .next t.publicPart
  | .fault f => .fault f
  | .refused r => .refused r

theorem disclosed_next {t t' : State} : disclosed (.next t) = disclosed (.next t') ↔ t.publicPart = t'.publicPart := by
  simp [disclosed]

section
variable {s : State}

theorem disclosed_ignored (read : Bool) :
    disclosed (.next (ignored read s)) = disclosed (.next (ignored read s.publicPart)) := by
  cases read <;> simp [disclosed_next, ignored, State.publicPart_reply, State.publicPart_publicPart]

theorem disclosed_refusal (read : Bool) (e : Exc) :
    disclosed (.next (refusal read e s)) = disclosed (.next (refusal read e s.publicPart)) := by
  cases read <;>
    simp [disclosed_next, refusal, State.publicPart_raise, State.publicPart_reply, State.publicPart_publicPart]

/-- A transaction discloses no secret where it does not once accepted. -/
theorem SameVerdict.disclosed_eq {read : Bool} {r r' q q' : Result} (h : SameVerdict read s s.publicPart r r' q q')
    (haccepted : disclosed r = disclosed r') : disclosed q = disclosed q' := by
  cases h with
  | ignored => exact disclosed_ignored read
  | refused e => exact disclosed_refusal read e
  | accepted => exact haccepted

/-! ## The operations -/

theorem disclosed_hostWrite (q : Option Reg) (v : Nat) (commit : State → Result)
    (h : disclosed (commit s) = disclosed (commit s.publicPart)) :
    disclosed (hostWrite q v commit s) = disclosed (hostWrite q v commit s.publicPart) :=
  (hostWrite_sameVerdict s.sameTests_publicPart q v commit).disclosed_eq h

theorem disclosed_hostRead (q : Option Reg) (value : State → Result)
    (h : disclosed (value s) = disclosed (value s.publicPart)) :
    disclosed (hostRead q value s) = disclosed (hostRead q value s.publicPart) :=
  (hostRead_sameVerdict s.sameTests_publicPart q value).disclosed_eq h

theorem disclosed_command (hi : Nat) {act : State → Result} {r r' : Result}
    (h : SameVerdict false s s.publicPart r r' (act s) (act s.publicPart)) (haccepted : disclosed r = disclosed r') :
    disclosed (command hi act s) = disclosed (command hi act s.publicPart) :=
  (command_sameVerdict s.sameTests_publicPart hi h).disclosed_eq haccepted

theorem disclosed_nothing : disclosed (.next s) = disclosed (.next s.publicPart) :=
  disclosed_ignored false

theorem disclosed_reply (v : Nat) : disclosed (.next (s.reply v)) = disclosed (.next (s.publicPart.reply v)) := by
  simp [disclosed_next, State.publicPart_reply, State.publicPart_publicPart]

theorem disclosed_plainWrite (r : Reg) (v : Nat) (store : State → State)
    (h : (store s).publicPart = (store s.publicPart).publicPart) :
    disclosed (plainWrite r v store s) = disclosed (plainWrite r v store s.publicPart) :=
  disclosed_hostWrite (some r) v _ (disclosed_next.mpr h)

theorem disclosed_writeOfReadOnly (r : Reg) (v : Nat) :
    disclosed (writeOfReadOnly r v s) = disclosed (writeOfReadOnly r v s.publicPart) :=
  disclosed_hostWrite (some r) v _ disclosed_nothing

theorem disclosed_plainRead (r : Reg) (v : State → Nat) (h : v s.publicPart = v s) :
    disclosed (plainRead r v s) = disclosed (plainRead r v s.publicPart) :=
  disclosed_hostRead (some r) _ (by rw [h]; exact disclosed_reply _)

theorem disclosed_readOfWriteOnly (r : Reg) :
    disclosed (readOfWriteOnly r s) = disclosed (readOfWriteOnly r s.publicPart) :=
  disclosed_hostRead (some r) _ disclosed_nothing

/-- A session starts with a DuplexState made of the key, and both are secret (R182). -/
theorem disclosed_beginSession (m : Mode) :
    disclosed (.next (s.beginSession m)) = disclosed (.next (s.publicPart.beginSession m)) := by
  rw [disclosed_next]
  rfl

/-- `CLR` leaves `IDLE`, where `BUF` is secret (R184). -/
theorem disclosed_clear : disclosed (.next s.clear) = disclosed (.next s.publicPart.clear) := by
  rw [disclosed_next]
  rfl

theorem pushElement_full (v : Nat) (h : ¬ s.cnt < s.cfg.maxBlocks) : pushElement v s = .fault .bufOutOfRange := by
  simp [pushElement, bufWrite, h]

/-- A push is of `IDLE`, where `BUF` is secret; the cell it needs is there by public registers alone (R150). -/
theorem disclosed_pushElement (v : Nat) : disclosed (pushElement v s) = disclosed (pushElement v s.publicPart) := by
  by_cases hlt : s.cnt < s.cfg.maxBlocks
  · rw [pushElement_next v hlt, pushElement_next (s := s.publicPart) v hlt, disclosed_next]
    by_cases hp : s.phase = .done <;> simp [State.publicPart, hp]
  · rw [pushElement_full v hlt, pushElement_full (s := s.publicPart) v hlt]

/-- In `DONE` `BUF` is public, so a pop discloses nothing more (R162). -/
theorem disclosed_popElement (hp : s.phase = .done) :
    disclosed (popElement s) = disclosed (popElement s.publicPart) := by
  have hbuf : bufRead s.publicPart s.publicPart.rdp = bufRead s s.rdp := by
    simp [bufRead, State.publicPart, hp]
  unfold popElement
  rw [hbuf]
  cases bufRead s s.rdp with
  | none => rfl
  | some v => simp [disclosed_next, State.publicPart, State.reply, hp]

/-- Before `DONE` the phase refuses a pop (R117, R140). -/
theorem disclosed_execRdDout : disclosed (exec .rdDout s) = disclosed (exec .rdDout s.publicPart) := by
  by_cases hdone : s.phase = .done
  · exact disclosed_hostRead (some .dout) popElement (disclosed_popElement hdone)
  by_cases hfatal : s.phase = .fatal
  · have hzero : ∀ u : State, u.phase = .fatal → exec .rdDout u = .next (u.reply 0) :=
      fun u hu => hostRead_fatal hu rfl
    rw [hzero s hfatal, hzero s.publicPart hfatal]
    exact disclosed_reply 0
  · rw [execRdDout_of_not_done hfatal hdone, execRdDout_of_not_done (s := s.publicPart) hfatal hdone]
    exact disclosed_refusal true .seq

/-- The ROM is no secret (R164). -/
theorem disclosed_romWindow : disclosed (romWindow s) = disclosed (romWindow s.publicPart) := by
  have hrom : romRead s.publicPart.cfg s.publicPart.rcaddr.toNat = romRead s.cfg s.rcaddr.toNat := rfl
  unfold romWindow
  rw [hrom]
  cases romRead s.cfg s.rcaddr.toNat with
  | none => rfl
  | some v => exact disclosed_reply v

/-- What a host operation discloses, it discloses of the public part alone. -/
theorem disclosed_exec (i : Instr) : disclosed (exec i s) = disclosed (exec i s.publicPart) := by
  cases i with
  | cmdNop hi => exact disclosed_command hi (act := .next) .accepted disclosed_nothing
  | cmdStartEnc hi =>
    exact disclosed_command hi (startSession_sameVerdict s.sameTests_publicPart _) (disclosed_beginSession _)
  | cmdStartDec hi =>
    exact disclosed_command hi (startSession_sameVerdict s.sameTests_publicPart _) (disclosed_beginSession _)
  | cmdClr hi => exact disclosed_command hi (clearSession_sameVerdict s.sameTests_publicPart) disclosed_clear
  | cmdReserved v =>
    exact disclosed_command (v / 2 ^ 32) (act := refuseWrite .cmd) .accepted (disclosed_refusal false .cmd)
  | wrK0 v | wrK1 v | wrNonce v | wrIv v | wrTagin v | wrLen v | wrRcaddr v =>
    dsimp only [exec, execWrK0, execWrK1, execWrNonce, execWrIv, execWrTagin, execWrLen, execWrRcaddr]
    refine disclosed_plainWrite _ v _ ?_
    by_cases hp : s.phase = .done <;> simp [State.publicPart, hp]
  | wrDin v => exact disclosed_hostWrite (some .din) v _ (disclosed_pushElement v)
  | wrStatus v | wrErr v | wrCnt v | wrBlk v | wrTagout v | wrDout v | wrRcdata v | wrCfgField v | wrCfgW v
  | wrCfgRbig v | wrCfgRsmall v | wrCfgRcoff v | wrCfgRcdepth v | wrCfgMaxblk v | wrCfgSlot v | wrCfgMod v
  | wrCfgRefillv v => exact disclosed_writeOfReadOnly _ v
  | wrUndefined a v => exact disclosed_hostWrite none v _ disclosed_nothing
  | rdDout => exact disclosed_execRdDout
  | rdRcdata => exact disclosed_hostRead (some .rcdata) romWindow disclosed_romWindow
  | rdCmd | rdK0 | rdK1 | rdDin => exact disclosed_readOfWriteOnly _
  | rdUndefined a => exact disclosed_hostRead none _ disclosed_nothing
  | rdStatus | rdErr | rdLen | rdCnt | rdBlk | rdNonce | rdIv | rdTagin | rdTagout | rdRcaddr | rdCfgField | rdCfgW
  | rdCfgRbig | rdCfgRsmall | rdCfgRcoff | rdCfgRcdepth | rdCfgMaxblk | rdCfgSlot | rdCfgMod | rdCfgRefillv =>
    dsimp only [exec, execRdStatus, execRdErr, execRdLen, execRdCnt, execRdBlk, execRdNonce, execRdIv, execRdTagin,
      execRdTagout, execRdRcaddr, execRdCfgField, execRdCfgW, execRdCfgRbig, execRdCfgRsmall, execRdCfgRcoff,
      execRdCfgRcdepth, execRdCfgMaxblk, execRdCfgSlot, execRdCfgMod, execRdCfgRefillv]
    refine disclosed_plainRead _ _ ?_
    rfl

end

/-- Settles O40: each of the two operations discloses what it does from the public part, and that is the same. -/
theorem hostCannotObserveSecrets : Obligations.HostCannotObserveSecrets := by
  intro s t s' t' i _ _ hsame ht ht'
  have hdisclosed : disclosed (.next t) = disclosed (.next t') := by
    rw [← ht, ← ht', disclosed_exec (s := s), disclosed_exec (s := s'), hsame]
  have hpublic := disclosed_next.mp hdisclosed
  have hreply : t.publicPart.rdata = t'.publicPart.rdata := congrArg State.rdata hpublic
  exact ⟨hpublic, hreply⟩

end Sys2Proof.Machine
end

section
/-! The one exception of a transaction (R210, R222, R223). -/

open Sys2Proof.Claims

namespace Sys2Proof.Machine

/-- Where the outcome `r` is a next state, `r'` is one with `ERR` clear. -/
def LeavesErrClear (r r' : Result) : Prop :=
  ∀ t, r = .next t → ∃ u, r' = .next u ∧ u.err = 0

theorem LeavesErrClear.next {t u : State} (h : u.err = 0) : LeavesErrClear (.next t) (.next u) :=
  fun _ _ => ⟨u, rfl, h⟩

/-- The outcome `r` is a refusal of `s` with one exception, or the outcome `r'` from a clear `ERR` leaves it clear. -/
def RaisesOneOrNone (read : Bool) (s : State) (r r' : Result) : Prop :=
  (∃ e, e ≠ Exc.cfg ∧ e ≠ Exc.auth ∧ r = .next (refusal read e s)) ∨ LeavesErrClear r r'

section
variable {s : State}

/-- A transaction raises one exception or none where, once accepted, it raises none. -/
theorem SameVerdict.raisesOneOrNone {read : Bool} {r r' q q' : Result}
    (h : SameVerdict read s { s with err := 0 } r r' q q') (haccepted : LeavesErrClear r r') :
    RaisesOneOrNone read s q q' := by
  cases h with
  | ignored => exact .inr (.next (by cases read <;> rfl))
  | refused e h0 h1 => exact .inl ⟨e, h0, h1, rfl⟩
  | accepted => exact .inr haccepted

/-! ## The operations -/

theorem hostWrite_raisesOneOrNone (q : Option Reg) (v : Nat) (commit : State → Result)
    (h : LeavesErrClear (commit s) (commit { s with err := 0 })) :
    RaisesOneOrNone false s (hostWrite q v commit s) (hostWrite q v commit { s with err := 0 }) :=
  (hostWrite_sameVerdict (s.sameTests_err 0) q v commit).raisesOneOrNone h

theorem hostRead_raisesOneOrNone (q : Option Reg) (value : State → Result)
    (h : LeavesErrClear (value s) (value { s with err := 0 })) :
    RaisesOneOrNone true s (hostRead q value s) (hostRead q value { s with err := 0 }) :=
  (hostRead_sameVerdict (s.sameTests_err 0) q value).raisesOneOrNone h

theorem plainWrite_raisesOneOrNone (r : Reg) (v : Nat) (store : State → State)
    (h : (store { s with err := 0 }).err = 0) :
    RaisesOneOrNone false s (plainWrite r v store s) (plainWrite r v store { s with err := 0 }) :=
  hostWrite_raisesOneOrNone (some r) v _ (.next h)

theorem writeOfReadOnly_raisesOneOrNone (r : Reg) (v : Nat) :
    RaisesOneOrNone false s (writeOfReadOnly r v s) (writeOfReadOnly r v { s with err := 0 }) :=
  hostWrite_raisesOneOrNone (some r) v _ (.next rfl)

theorem plainRead_raisesOneOrNone (r : Reg) (v : State → Nat) :
    RaisesOneOrNone true s (plainRead r v s) (plainRead r v { s with err := 0 }) :=
  hostRead_raisesOneOrNone (some r) _ (.next rfl)

theorem readOfWriteOnly_raisesOneOrNone (r : Reg) :
    RaisesOneOrNone true s (readOfWriteOnly r s) (readOfWriteOnly r { s with err := 0 }) :=
  hostRead_raisesOneOrNone (some r) _ (.next rfl)

theorem command_raisesOneOrNone (hi : Nat) {act : State → Result} {r r' : Result}
    (h : SameVerdict false s { s with err := 0 } r r' (act s) (act { s with err := 0 }))
    (haccepted : LeavesErrClear r r') :
    RaisesOneOrNone false s (command hi act s) (command hi act { s with err := 0 }) :=
  (command_sameVerdict (s.sameTests_err 0) hi h).raisesOneOrNone haccepted

theorem pushElement_leavesErrClear (v : Nat) :
    LeavesErrClear (pushElement v s) (pushElement v { s with err := 0 }) := by
  intro t ht
  have hlt : s.cnt < s.cfg.maxBlocks := by
    by_contra hfull
    simp [pushElement_full v hfull] at ht
  exact ⟨_, pushElement_next (s := { s with err := 0 }) v hlt, rfl⟩

theorem popElement_leavesErrClear : LeavesErrClear (popElement s) (popElement { s with err := 0 }) := by
  intro t ht
  have hlt : s.rdp < s.cfg.maxBlocks := by
    by_contra hend
    simp [popElement, bufRead, hend] at ht
  exact ⟨_, popElement_next (s := { s with err := 0 }) hlt, rfl⟩

theorem romWindow_leavesErrClear : LeavesErrClear (romWindow s) (romWindow { s with err := 0 }) := by
  unfold romWindow
  dsimp only
  split
  · intro t ht
    cases ht
  · exact .next rfl

/-- Every operation is refused with one exception, or raises none. -/
theorem exec_raisesOneOrNone (i : Instr) : RaisesOneOrNone (isRead i) s (exec i s) (exec i { s with err := 0 }) := by
  cases i with
  | cmdNop hi => exact command_raisesOneOrNone hi (act := .next) .accepted (.next rfl)
  | cmdStartEnc hi =>
    exact command_raisesOneOrNone hi (startSession_sameVerdict (s.sameTests_err 0) _) (.next rfl)
  | cmdStartDec hi =>
    exact command_raisesOneOrNone hi (startSession_sameVerdict (s.sameTests_err 0) _) (.next rfl)
  | cmdClr hi => exact command_raisesOneOrNone hi (clearSession_sameVerdict (s.sameTests_err 0)) (.next BitVec.zero_and)
  | cmdReserved v =>
    have hrefused : SameVerdict false s { s with err := 0 } (.next s) (.next { s with err := 0 })
        (refuseWrite .cmd s) (refuseWrite .cmd { s with err := 0 }) := .refused .cmd (by decide) (by decide)
    exact command_raisesOneOrNone (v / 2 ^ 32) hrefused (.next rfl)
  | wrK0 v | wrK1 v | wrNonce v | wrIv v | wrTagin v | wrLen v | wrRcaddr v =>
    dsimp only [exec, execWrK0, execWrK1, execWrNonce, execWrIv, execWrTagin, execWrLen, execWrRcaddr]
    exact plainWrite_raisesOneOrNone _ v _ rfl
  | wrStatus v | wrErr v | wrCnt v | wrBlk v | wrTagout v | wrDout v | wrRcdata v | wrCfgField v | wrCfgW v
  | wrCfgRbig v | wrCfgRsmall v | wrCfgRcoff v | wrCfgRcdepth v | wrCfgMaxblk v | wrCfgSlot v | wrCfgMod v
  | wrCfgRefillv v => exact writeOfReadOnly_raisesOneOrNone _ v
  | wrUndefined a v => exact hostWrite_raisesOneOrNone none v _ (.next rfl)
  | wrDin v => exact hostWrite_raisesOneOrNone (some .din) v _ (pushElement_leavesErrClear v)
  | rdDout => exact hostRead_raisesOneOrNone (some .dout) _ popElement_leavesErrClear
  | rdRcdata => exact hostRead_raisesOneOrNone (some .rcdata) _ romWindow_leavesErrClear
  | rdCmd | rdK0 | rdK1 | rdDin => exact readOfWriteOnly_raisesOneOrNone _
  | rdUndefined a => exact hostRead_raisesOneOrNone none _ (.next rfl)
  | rdStatus | rdErr | rdLen | rdCnt | rdBlk | rdNonce | rdIv | rdTagin | rdTagout | rdRcaddr | rdCfgField | rdCfgW
  | rdCfgRbig | rdCfgRsmall | rdCfgRcoff | rdCfgRcdepth | rdCfgMaxblk | rdCfgSlot | rdCfgMod | rdCfgRefillv =>
    dsimp only [exec, execRdStatus, execRdErr, execRdLen, execRdCnt, execRdBlk, execRdNonce, execRdIv, execRdTagin,
      execRdTagout, execRdRcaddr, execRdCfgField, execRdCfgW, execRdCfgRbig, execRdCfgRsmall, execRdCfgRcoff,
      execRdCfgRcdepth, execRdCfgMaxblk, execRdCfgSlot, execRdCfgMod, execRdCfgRefillv]
    exact plainRead_raisesOneOrNone _ _

end

/-- An operation that is not refused leaves `ERR`, but for an accepted `CLR`, which keeps bit 0 (R184). -/
theorem HostEffect.err_cases {i : Instr} {s t : State} (h : HostEffect i s t) :
    (∃ e, e ≠ Exc.cfg ∧ e ≠ Exc.auth ∧ t = refusal (isRead i) e s) ∨
    t.err = s.err ∨ (i = .cmdClr 0 ∧ s.phase.settled = true ∧ t.err = s.err &&& 0x001) := by
  cases h with
  | refused _ _ e hr _ h0 h1 | refusedRead _ _ e hr _ h0 h1 => exact .inl ⟨e, h0, h1, by rw [hr]; rfl⟩
  | clear _ hp => exact .inr (.inr ⟨rfl, by rcases hp with hp | hp | hp <;> simp [hp, Phase.settled], rfl⟩)
  | _ => exact .inr (.inl rfl)

/-- A refusal sets one of the bits 2 to 8 of `ERR` (R211). -/
theorem refusal_eq (i : Instr) (s : State) {e : Exc} (h0 : e ≠ .cfg) (h1 : e ≠ .auth) :
    ∃ b, 2 ≤ b ∧ b ≤ 8 ∧ refusal (isRead i) e s = if isRead i = true then readRefused b s else raised b s := by
  obtain ⟨hlo, hhi⟩ := Exc.code_bounds h0 h1
  exact ⟨e.code, hlo, hhi, by cases isRead i <;> rfl⟩

/-- Settles O37: an operation is refused, or raises nothing with `ERR` clear beforehand; and then its effect is one that
leaves `ERR` or is an accepted `CLR`. -/
theorem transactionRaisesAtMostOne : Obligations.TransactionRaisesAtMostOne := by
  intro s t i ht
  rcases (exec_effect i s t ht).err_cases with ⟨e, h0, h1, rfl⟩ | herr
  · exact .inl (refusal_eq i s h0 h1)
  rcases exec_raisesOneOrNone (s := s) i with ⟨e, h0, h1, hrefused⟩ | hclear
  · obtain rfl : t = refusal (isRead i) e s := by simpa [ht] using hrefused
    exact .inl (refusal_eq i s h0 h1)
  · exact .inr ⟨hclear t ht, herr⟩

end Sys2Proof.Machine
end

section
/-! The reset event (R240 to R243): what it leaves in every register, and that it may leave any contents in `BUF`. -/

open Sys2Proof.Claims

namespace Sys2Proof.Machine

/-! ## The contents of `BUF` after reset (R242) -/

theorem Memory.wf_iff (m : Memory) : m.wf = true ↔ m.Pairwise (fun c d => c.1 < d.1) ∧ ∀ c ∈ m, c.2 ≠ 0 := by
  induction m with
  | nil => simp [Memory.wf]
  | cons c m ih =>
    rw [Memory.wf_cons, ih, List.pairwise_cons, List.forall_mem_cons]
    tauto

/-- A write above every listed index goes to the end. -/
theorem Memory.write_above {m : Memory} {c : Nat × Elt} (h : ∀ d ∈ m, d.1 < c.1) (hc : c.2 ≠ 0) :
    m.write c.1 c.2 = m ++ [c] := by
  induction m with
  | nil => exact if_neg hc
  | cons d m ih =>
    obtain ⟨hd, hm⟩ := List.forall_mem_cons.mp h
    rw [Memory.write, if_neg (by omega), if_neg (by omega), ih hm, List.cons_append]

/-- Taking the entries of a memory in their order, after those that are there, gives that memory. -/
theorem Memory.foldl_write_eq_append {n order : Nat} {m l : Memory} (hwf : Memory.wf (m ++ l) = true)
    (hl : l.within n order = true) :
    l.foldl (fun m c => if c.1 < n ∧ c.2 < order then Memory.write m c.1 c.2 else m) m = m ++ l := by
  induction l generalizing m with
  | nil => exact (List.append_nil m).symm
  | cons c l ih =>
    obtain ⟨hc, hl⟩ : (c.1 < n ∧ c.2 < order) ∧ Memory.within n order l = true := by
      simpa only [Memory.within, List.all_cons, Bool.and_eq_true, decide_eq_true_eq] using hl
    obtain ⟨hrising, hnonzero⟩ := (Memory.wf_iff _).mp hwf
    obtain ⟨-, -, habove⟩ := List.pairwise_append.mp hrising
    have hwrite : m.write c.1 c.2 = m ++ [c] :=
      Memory.write_above (fun d hd => habove d hd c (by simp)) (hnonzero c (by simp))
    rw [List.foldl_cons, if_pos hc, hwrite, ih (List.append_cons m c l ▸ hwf) hl, ← List.append_cons]

/-- A memory that `BUF` can hold is what the reset event leaves where that memory is its noise (R242). -/
theorem Memory.ofNoise_self {n order : Nat} {m : Memory} (hwf : m.wf = true) (hm : m.within n order = true) :
    Memory.ofNoise n order m = m :=
  Memory.foldl_write_eq_append (m := []) hwf hm

theorem step_of_reset (s : State) (noise : List (Nat × Elt)) (rest : List Event) :
    step { s with inputs := .reset noise :: rest } = .next (State.resetEvent { s with inputs := rest } noise) := rfl

/-- Settles O8: the contents themselves are the noise that leaves them. -/
theorem resetLeavesAnyBufferContents : Obligations.ResetLeavesAnyBufferContents := by
  intro s m hwf hm
  refine ⟨m, fun rest t ht => ?_⟩
  rw [step_of_reset] at ht
  cases ht
  exact Memory.ofNoise_self hwf hm

/-! ## The registers after reset (R241) -/

theorem State.resetEvent_statusWord (s : State) (noise : List (Nat × Elt)) :
    (s.resetEvent noise).statusWord = if s.cfg.cfgOk = true then 0x000 else 0x007 := by
  cases hok : s.cfg.cfgOk <;> simp [State.statusWord, hok, Phase.code, Phase.busy, Mode.bit]

/-- `CLR` leaves the state after reset, but for `IV`, `RCADDR` and `BUF` (R184, R241). -/
theorem State.Inv.clear_eq_resetEvent {s : State} (hs : s.Inv) (hok : s.cfg.cfgOk = true) (noise : List (Nat × Elt)) :
    s.clear = { s.resetEvent noise with iv := s.iv, rcaddr := s.rcaddr, buf := s.clear.buf } := by
  have herr : s.clear.err = 0 := hs.clear_err_eq_zero (hs.live hok).notFatal
  calc s.clear = { s.clear with err := 0 } := by rw [← herr]
    _ = { s.resetEvent noise with err := 0, phase := .idle, iv := s.iv, rcaddr := s.rcaddr, buf := s.clear.buf } := rfl
    _ = _ := by simp [State.resetEvent, State.resetOf, hok]

/-- Settles O7: the registers by the definition of the event, then what the reads of the state after it answer, then
the comparison with `CLR`. -/
theorem resetEventSetsEveryRegister : Obligations.ResetEventSetsEveryRegister := by
  intro s noise rest hin
  have hstep : step s = .next (State.resetEvent { s with inputs := rest } noise) := by
    rw [← step_of_reset s noise rest, ← hin]
  refine ⟨_, hstep, rfl, fun ho i => Memory.read_lt _ _ _ i (Memory.within_ofNoise _ _ _) ho, ?status,
    fun hok w hw => ?word, fun hbad => ?hidden, fun hc => configurationReads _ hc, fun hs hok hb u hu => ?clear⟩
  case status =>
    rw [← State.resetEvent_statusWord { s with inputs := rest } noise]
    exact plainRead_always (r := .status) rfl (fun s => s.statusWord) _
  case word => exact ((romWindowReads _).1 (.inl (if_pos hok))).1 w hw
  case hidden => exact (romWindowReads _).2.2 (if_neg (by simp [hbad]))
  case clear =>
    obtain rfl : s.clear = u :=
      Host.Outcome.next.inj ((exec_cmdClr_accepted (hs.live hok).notFatal hb).symm.trans hu)
    exact (hs.clear_eq_resetEvent hok noise).symm

end Sys2Proof.Machine
end

section
/-! The end of a session and what follows from how one is made: the key is scrubbed (R251), a reused nonce discloses
differences (R246, R249), and the number of turns depends on the length alone (R200, R258). -/

open Sys2Proof.Claims

namespace Sys2Proof

section
variable {c : Config} (hc : c.admissible = true) {a b m : Elt}
include hc

/-- `(a + m) - (b + m) = a - b`: a common mask leaves the difference. -/
theorem Config.add_sub_add_right (ha : a < c.field.order) (hb : b < c.field.order) (hm : m < c.field.order) :
    c.field.sub (c.field.add a m) (c.field.add b m) = c.field.sub a b := by
  obtain ⟨K, _, e, he⟩ := Config.exists_ring_represents hc
  have ham := c.field.add_lt_order a m ha hm
  have hbm := c.field.add_lt_order b m hb hm
  refine he.inj _ _ (c.field.sub_lt_order _ _ ham hbm) (c.field.sub_lt_order a b ha hb) ?_
  simp only [he.map_sub, he.map_add, ha, hb, hm, ham, hbm]
  ring

end

end Sys2Proof

namespace Sys2Proof.Machine

/-! ## A reused nonce (R246, R249) -/

/-- With the default layout the nonce and the IV enter as their sum (R112). -/
theorem encrypt_of_add_eq {c : Config} (hlayout : c.ksLayout = .noncePlusIv) {n iv n' iv' : Elt}
    (hsum : c.field.add n iv = c.field.add n' iv') (k0 k1 : Elt) (m : List Elt) :
    encrypt c k0 k1 n iv m = encrypt c k0 k1 n' iv' m := by
  have hks : keySchedule c k0 k1 n iv = keySchedule c k0 k1 n' iv' := by
    rw [keySchedule, keySchedule, ksLayoutOf_noncePlusIv hlayout, ksLayoutOf_noncePlusIv hlayout, hsum]
  rw [encrypt, encrypt, hks]

/-- Settles O54: block `i` of both messages has the same mask, and so has the tag where the lengths are equal. -/
theorem nonceReuseDisclosesDifferences : Obligations.NonceReuseDisclosesDifferences := by
  intro c k0 k1 n iv m1 m2 hc hok h0 h1 hn hiv hm1 hm2
  refine ⟨fun i x1 x2 y1 y2 hx1 hx2 hy1 hy2 => ?_, (tagIgnoresContent c k0 k1 n iv m1 m2).1,
    fun n' iv' hlayout hsum => encrypt_of_add_eq hlayout hsum k0 k1 m1⟩
  simp only [encrypt_eq, List.getElem?_mapIdx, hx1, hx2, Option.map_some, Option.some.injEq] at hy1 hy2
  subst hy1 hy2
  exact Config.add_sub_add_right hc (hm1 x1 (List.mem_of_getElem? hx1)) (hm2 x2 (List.mem_of_getElem? hx2))
    (maskAt_lt_order hc hok (keySchedule_canonical hc h0 h1 hn hiv) i)

/-! ## The key at the end of a session (R199, R251) -/

/-- The turn that ends a session leads to `DONE` or to `FAIL` (R201). -/
theorem phase_of_session_end {s t : State} (hb : s.phase.busy = true) (h : microStep s = .next t)
    (ht : t.phase.busy = false) : t.phase = .done ∨ t.phase = .fail := by
  rcases microStep_phase_cases h with hsame | hedge
  · simp [hsame, hb] at ht
  · rcases hedge with ⟨-, -, -, hp⟩ | ⟨-, -, -, hp⟩ | ⟨-, -, -, hp⟩ | ⟨-, -, hp⟩ | ⟨-, -, hp⟩ | ⟨-, -, hp⟩
    all_goals simp_all [Phase.busy]

theorem TurnEffect.nv_eq {s t : State} (h : TurnEffect s t) : t.nv = s.nv := by
  cases h <;> rfl

theorem State.clear_operandsValid (s : State) (m : Mode) : s.clear.operandsValid m = false := by
  cases m <;> rfl

/-- Settles O43: what the invariant says of the ends of a session (R35 f), then the tests of the start command there and
after `CLR`. -/
theorem keyMustBeSuppliedAgain : Obligations.KeyMustBeSuppliedAgain := by
  intro s t m hs hb hturn hidle
  have hend := phase_of_session_end hb hturn hidle
  have hp : t.phase ≠ .fatal ∧ t.phase ≠ .idle := by rcases hend with h | h <;> simp [h]
  obtain ⟨hfatal, hne⟩ := hp
  obtain ⟨-, -, -, hk0, hk1, -⟩ := ((hs.of_turn hturn).live_of_not_fatal hfatal).ended hend
  obtain ⟨-, -, hnv, -⟩ := (hs.live (hs.cfgOk_of_busy hb)).busyOperands hb
  obtain ⟨-, -, -, hseq, -⟩ := startCommand_startOf m t
  obtain ⟨-, hopnd, -⟩ := startCommand_startOf m t.clear
  exact ⟨hk0, hk1, (microStep_effect hturn).nv_eq.trans hnv, hseq hne hfatal, t.clear,
    exec_cmdClr_accepted hfatal hidle, rfl, hopnd rfl (t.clear_operandsValid m)⟩

/-! ## The number of turns of a session (R200, R258) -/

/-- The turn of the last commit ends the session, whatever the mode and the tag (R196 to R198). -/
theorem microStep_atCommit {b : State} (hok : b.cfg.cfgOk = true) :
    ∃ u, microStep b.atCommit = .next u ∧ (u.phase = .done ∨ u.phase = .fail) := by
  have hslot := slot_of_cfgOk b.cfg b.atCommit.duplex hok
  cases hmode : b.mode with
  | encrypt => exact ⟨_, microStep_finCommitEnc rfl rfl hslot hmode, .inl rfl⟩
  | decrypt =>
    by_cases htag : maskOf b.cfg b.atCommit.duplex = b.tagin
    · exact ⟨_, microStep_finCommitDecOk rfl rfl hslot hmode htag, .inl rfl⟩
    · exact ⟨_, microStep_finCommitDecFail rfl rfl hslot hmode htag, .inr rfl⟩

/-- A start command that leads to `KS` has been accepted (R182, R183). -/
theorem eq_beginSession_of_exec_startOf {s b : State} {m : Mode} (h : exec (startOf m) s = .next b)
    (hb : b.phase = .ks) (hp : s.phase = .idle) : s.cnt = s.len.toNat ∧ b = s.beginSession m := by
  rw [exec_startOf m (by simp [hp])] at h
  rcases startSession_cases m s b h with ⟨e, -, rfl⟩ | ⟨-, -, hcnt, rfl⟩
  · simp [hp] at hb
  · exact ⟨hcnt, rfl⟩

/-- Settles O55: all turns but the last lead to the last commit, which is of a busy phase, and the last turn is that
commit. -/
theorem sessionStepCount : Obligations.SessionStepCount := by
  intro s b m hs hok hstart hb hp
  obtain ⟨hcnt, rfl⟩ := eq_beginSession_of_exec_startOf hstart hb hp
  have hlen : s.len.toNat ≤ s.cfg.maxBlocks := hcnt ▸ hs.bounded.cnt
  have hcommit : microSteps (s.cfg.rBig + 1 + s.len.toNat * (s.cfg.rSmall + 1) + s.cfg.rSmall) (s.beginSession m) =
      .next (s.beginSession m).atCommit :=
    microSteps_atCommit (b := s.beginSession m) hok rfl rfl rfl hlen rfl
  obtain ⟨u, hu, hend⟩ := microStep_atCommit (b := s.beginSession m) hok
  exact ⟨fun j hj => microSteps_busy_of_le hcommit rfl (Nat.le_of_lt_succ hj), u,
    (microSteps_succ_of hcommit).trans hu, hend⟩

end Sys2Proof.Machine
end

section
/-! Runs of the machine that do not depend on what is queued behind them, and the session protocol after its start: the
wait for the sequencer, the reads of the results and `CLR` (R245, steps 7 to 12). -/

open Sys2Proof.Claims

namespace Sys2Proof.Machine

/-! ## Runs -/

/-- From `s` the machine takes the actions `es` and is then in `t`, whatever is queued behind them (log 5). -/
def Reaches (s : State) (es : List Event) (t : State) : Prop :=
  ∀ q, stepN es.length { s with inputs := es ++ q } = .next { t with inputs := q }

section
variable {s t u : State} {es fs : List Event}

theorem Reaches.runs (h : Reaches s es t) : runs s es { t with inputs := s.inputs } :=
  h s.inputs

theorem Reaches.nil (s : State) : Reaches s [] s :=
  fun _ => rfl

theorem Reaches.append (h : Reaches s es u) (h' : Reaches u fs t) : Reaches s (es ++ fs) t := by
  intro q
  rw [List.length_append, List.append_assoc, stepN_add _ _ _ _ (h (fs ++ q))]
  exact h' q

theorem Reaches.cons {e : Event} (h : Reaches s [e] u) (h' : Reaches u es t) : Reaches s (e :: es) t :=
  h.append h'

theorem Reaches.of_exec {tr : Transaction} {i : Instr} (hdec : decode s.cfg.dw tr = .ok i)
    (h : ∀ q, exec i { s with inputs := q } = .next { t with inputs := q }) : Reaches s [.host tr] t :=
  fun q => stepN_of_step 0 _ _ ((step_of_host s tr q i hdec).trans (h q))

/-- A turn of the sequencer leaves the word of the latest read (log 7). -/
theorem Reaches.of_microStep (h : microStep s = .next t) (v : Nat) :
    Reaches { s with rdata := v } [.engine] { t with rdata := v } :=
  fun q =>
    have hturn := microStep_withQueueAndReply q v h
    stepN_of_step 0 _ _ ((step_of_engine { s with rdata := v } q).trans hturn)

theorem decode_rd (c : Config) (a : Addr) : decode c.dw (.rd a) = .ok (Transaction.rd a).operation :=
  decode_eq_ok_iff.mpr ⟨Nat.two_pow_pos _, rfl⟩

/-- A poll of `STATUS` is answered in every phase (R153). -/
theorem reaches_poll (s : State) : Reaches s [readEvent .status] { s with rdata := s.statusWord } :=
  .of_exec (decode_rd s.cfg _) fun _ => plainRead_always (r := .status) rfl (fun s => s.statusWord) _

end

/-! ## The wait (R245, step 8) -/

/-- Polls and turns take the machine where the turns alone take it, but for the word of the latest poll. -/
theorem reaches_wait {wait : List Event} (hwait : ∀ e ∈ wait, e = .engine ∨ e = readEvent .status) {s t : State}
    (h : microSteps (turns wait) s = .next t) (v : Nat) :
    ∃ w, Reaches { s with rdata := v } wait { t with rdata := w } := by
  induction wait generalizing s v with
  | nil =>
    cases h
    exact ⟨v, .nil _⟩
  | cons e wait ih =>
    obtain ⟨rfl | rfl, hrest⟩ := List.forall_mem_cons.mp hwait
    · rw [turns_engine_cons] at h
      cases hs : microStep s with
      | next u =>
        obtain ⟨w, hreach⟩ := ih hrest ((microSteps_of_microStep hs).symm.trans h) v
        exact ⟨w, (Reaches.of_microStep hs v).cons hreach⟩
      | fault r | refused r => simp [microSteps, hs] at h
    · obtain ⟨w, hreach⟩ := ih hrest ((congrArg (microSteps · s) (turns_host_cons _ wait)).symm.trans h) s.statusWord
      exact ⟨w, (reaches_poll { s with rdata := v }).cons hreach⟩

section
variable {b u : State} {m : Mode} (hok : b.cfg.cfgOk = true) (hcnt : b.cnt = b.len.toNat)
  (hroom : b.cnt ≤ b.cfg.maxBlocks) (hu : microStep (b.beginSession m).atCommit = .next u)
  (hend : u.phase.busy = false)
include hok hcnt hroom hu hend

/-- All that a session needs of turns, and any number more, end it (R200). -/
theorem microSteps_session {n : Nat} (hn : nSteps b.cfg b.cnt ≤ n) : microSteps n (b.beginSession m) = .next u := by
  obtain ⟨k, hk⟩ : ∃ k, k + 1 = nSteps b.cfg b.cnt := ⟨_, rfl⟩
  have hcommit : microSteps k (b.beginSession m) = .next (b.beginSession m).atCommit :=
    microSteps_atCommit (b := b.beginSession m) hok rfl rfl rfl (hcnt ▸ hroom) (hcnt ▸ hk)
  have hlast := (microSteps_succ_of hcommit).trans hu
  obtain ⟨j, rfl⟩ := Nat.exists_eq_add_of_le hn
  rw [← hk, microSteps_add _ _ _ _ hlast, microSteps_of_not_busy hend]

/-- The start command and the wait (R245, steps 7 and 8). -/
theorem reaches_session (hp : b.phase = .idle) (hvalid : b.operandsValid m = true) {wait : List Event}
    (hwait : waiting (nSteps b.cfg b.cnt) wait) :
    ∃ v, Reaches b ([writeEvent .cmd (startWord m)] ++ wait) { u with rdata := v } := by
  obtain ⟨hpolls, hturns⟩ := hwait
  have hstart : Reaches b [writeEvent .cmd (startWord m)] (b.beginSession m) :=
    .of_exec (decode_startWord b.cfg m) fun q => (startCommand_startOf m { b with inputs := q }).1 hp hvalid hcnt
  obtain ⟨v, hrun⟩ := reaches_wait hpolls (microSteps_session hok hcnt hroom hu hend hturns) b.rdata
  exact ⟨v, hstart.append hrun⟩

end

/-! ## The results (R245, steps 10 and 11) -/

section
variable {t : State}

theorem reaches_pop (hp : t.phase = .done) (hlt : t.rdp < t.cnt) (hcnt : t.cnt ≤ t.cfg.maxBlocks) :
    Reaches t [readEvent .dout] { t with rdp := t.rdp + 1, rdata := t.buf.read t.rdp } :=
  .of_exec (decode_rd t.cfg _) fun q => (popReturnsNextElement { t with inputs := q }).1 hp hlt hcnt

theorem reaches_readTagout (hp : t.phase ≠ .fatal) :
    Reaches t [readEvent .tagout] { t with rdata := t.tagout } :=
  .of_exec (decode_rd t.cfg _) fun q =>
    (publicRead_of_plainRead (r := .tagout) (i := .rdTagout) (by decide) (fun _ => rfl) { t with inputs := q }).1 hp

/-- Pops and `TAGOUT` reads in any order, as many pops as there are elements left: each pop moves `RDP` by one, and the
last reply is the element before `RDP`, or the tag. -/
theorem reaches_reads (hp : t.phase = .done) (hcnt : t.cnt ≤ t.cfg.maxBlocks) {reads : List Event}
    (hreads : ∀ e ∈ reads, e = readEvent .dout ∨ e = readEvent .tagout)
    (hpops : t.rdp + reads.count (readEvent .dout) ≤ t.cnt) :
    ∃ v, Reaches t reads { t with rdp := t.rdp + reads.count (readEvent .dout), rdata := v } ∧
      (reads.getLast? = some (readEvent .dout) → v = t.buf.read (t.rdp + reads.count (readEvent .dout) - 1)) ∧
      (reads.getLast? = some (readEvent .tagout) → v = t.tagout) := by
  have hne : readEvent .tagout ≠ readEvent .dout := by decide
  induction reads using List.reverseRecOn with
  | nil => exact ⟨t.rdata, .nil t, nofun, nofun⟩
  | append_singleton reads e ih =>
    obtain ⟨hreads, he⟩ := List.forall_mem_append.mp hreads
    rw [List.count_append] at hpops
    obtain ⟨w, hreach, -⟩ := ih hreads (by omega)
    rw [List.getLast?_concat, List.count_append]
    rcases he e (List.mem_singleton_self e) with rfl | rfl
    · rw [List.count_singleton_self] at hpops ⊢
      have hpop := reaches_pop
        (t := { t with rdp := t.rdp + reads.count (readEvent .dout), rdata := w }) hp hpops hcnt
      exact ⟨_, hreach.append hpop, fun _ => rfl, fun h => absurd (Option.some.inj h).symm hne⟩
    · rw [List.count_singleton, beq_eq_false_iff_ne.mpr hne]
      exact ⟨_, hreach.append (reaches_readTagout (by simp [hp])), fun h => absurd (Option.some.inj h) hne, fun _ => rfl⟩

/-! ## `CLR` (R245, step 12) -/

theorem clears_of_settled (hp : t.phase = .done ∨ t.phase = .fail) (herr : t.err &&& 0x001 = 0) : clears t := by
  have hphase : t.phase ≠ .fatal ∧ t.phase.busy = false := by rcases hp with hp | hp <;> simp [hp, Phase.busy]
  obtain ⟨hfatal, hb⟩ := hphase
  have hdec : decode t.cfg.dw (.wr Reg.cmd.addr 0x03) = .ok (.cmdClr 0) :=
    decode_eq_ok_iff.mpr ⟨lt_of_lt_of_le (by decide) (Nat.pow_le_pow_right (by decide) (le_max_left 32 _)), rfl⟩
  have hclear : Reaches t [writeEvent .cmd 0x03] t.clear :=
    .of_exec hdec fun q => exec_cmdClr_accepted (s := { t with inputs := q }) hfatal hb
  exact ⟨_, hclear.runs, rfl, herr⟩

/-- In `DONE`, with no element popped yet, the host reads the sequence and the tag as it likes. -/
theorem resultsReadable_of_done (hp : t.phase = .done) (hcnt : t.cnt ≤ t.cfg.maxBlocks) (hrdp : t.rdp = 0)
    (herr : t.err = 0) : resultsReadable t (t.sequence t.cnt) t.tagout := by
  intro reads hreads hpops
  replace hpops : reads.count (readEvent .dout) ≤ t.cnt := by simpa [State.sequence] using hpops
  obtain ⟨v, hreach, hdout, htagout⟩ := reaches_reads hp hcnt hreads (by omega)
  rw [hrdp, Nat.zero_add] at hreach hdout
  refine ⟨_, hreach.runs, herr, clears_of_settled (.inl hp) (by simp [herr]), fun hlast => ?_, htagout⟩
  have hpos : 0 < reads.count (readEvent .dout) := List.count_pos_iff.mpr (List.mem_of_getLast? hlast)
  have hlt : reads.count (readEvent .dout) - 1 < t.cnt := by omega
  simp [State.sequence, hlt, hdout hlast]

end

end Sys2Proof.Machine
end

section
/-! The loads of the session protocol, in any order (R245, steps 2 to 6): each is accepted, and together they leave the
operands, the length and the sequence in the registers and in `BUF`. -/

open Sys2Proof.Claims

namespace Sys2Proof

/-- A sequence that fits `BUF` has a length that fits `LEN` (R31). -/
theorem Config.maxBlocks_lt {c : Config} (h : c.admissible = true) : c.maxBlocks < 2 ^ 32 := by
  simp only [Config.admissible, Bool.and_eq_true, decide_eq_true_eq] at h
  obtain ⟨-, -, -, -, -, -, -, -, -, -, hmax⟩ := h
  exact hmax


end Sys2Proof

namespace Sys2Proof.Machine

/-! ## The writes that load a session (R144 to R150) -/

/-- A write that loads an operand, the length or a block, with data in range (R66). -/
def IsLoad (c : Config) : Instr → Prop
  | .wrK0 v | .wrK1 v | .wrNonce v | .wrIv v | .wrTagin v | .wrDin v => v < c.field.order
  | .wrLen v => v < 2 ^ 32
  | _ => False

/-- What such a write stores; another operation stores nothing. -/
def store (i : Instr) (s : State) : State :=
  match i with
  | .wrK0 v => { s with k0 := v, k0v := true }
  | .wrK1 v => { s with k1 := v, k1v := true }
  | .wrNonce v => { s with nonce := v, nv := true }
  | .wrIv v => { s with iv := v }
  | .wrTagin v => { s with tagin := v, tv := true }
  | .wrLen v => { s with len := BitVec.ofNat 32 v }
  | .wrDin v => { s with buf := s.buf.write s.cnt v, cnt := s.cnt + 1 }
  | _ => s

/-- The blocks an operation pushes. -/
def pushed : Instr → List Elt
  | .wrDin v => [v]
  | _ => []

/-- In `IDLE`, with room for what it pushes, a load is accepted. -/
theorem exec_load {s : State} {i : Instr} (hi : IsLoad s.cfg i) (hp : s.phase = .idle)
    (hroom : s.cnt + (pushed i).length ≤ s.cfg.maxBlocks) : exec i s = .next (store i s) := by
  obtain ⟨hk0, hk1, hnonce, htagin⟩ := operandWritesStoreAndValidate
  obtain ⟨hiv, -⟩ := ivChangesOnlyByWriteOrReset
  cases i with
  | wrK0 v => exact (hk0 s v).1 hp hi
  | wrK1 v => exact (hk1 s v).1 hp hi
  | wrNonce v => exact (hnonce s v).1 hp hi
  | wrIv v => exact (hiv s v).1 hp hi
  | wrTagin v => exact (htagin s v).1 hp hi
  | wrLen v => exact (controlRegisterWrites s v).1 hp hi
  | wrDin v =>
    have hlt : s.cnt < s.cfg.maxBlocks := hroom
    obtain ⟨-, -, -, -, hpush⟩ := hostWrite_element (r := .din) (by decide) v (pushElement v) s
    exact (hpush hp hi (if_neg hlt.ne)).trans (pushElement_next v hlt)
  | _ => exact hi.elim

/-! ## Many stores -/

/-- What a list of loads stores. -/
def storeAll (is : List Instr) (s : State) : State :=
  is.foldl (fun s i => store i s) s

theorem storeAll_cons (i : Instr) (is : List Instr) (s : State) : storeAll (i :: is) s = storeAll is (store i s) := rfl

/-- What each store keeps, all of them keep. -/
theorem storeAll_keeps {P : State → Prop} {is : List Instr} {s : State} (hs : P s)
    (hkeep : ∀ i ∈ is, ∀ t, P t → P (store i t)) : P (storeAll is s) := by
  induction is generalizing s with
  | nil => exact hs
  | cons i is ih =>
    obtain ⟨hi, his⟩ := List.forall_mem_cons.mp hkeep
    exact ih (hi s hs) his

/-- What one store of the list brings about and the others keep holds after all. -/
theorem storeAll_of_mem {P : State → Prop} {is : List Instr} {j : Instr} {s : State} (hj : j ∈ is)
    (hstore : ∀ t, P (store j t)) (hkeep : ∀ i ∈ is, i = j ∨ ∀ t, P t → P (store i t)) : P (storeAll is s) := by
  have hkeep' : ∀ i ∈ is, ∀ t, P t → P (store i t) := fun i hi t ht =>
    (hkeep i hi).elim (fun heq => heq ▸ hstore t) fun h => h t ht
  obtain ⟨before, after, rfl⟩ := List.append_of_mem hj
  rw [storeAll, List.foldl_append, List.foldl_cons]
  exact storeAll_keeps (hstore _) fun i hi => hkeep' i (by simp [hi])

/-- The registers that no load writes. -/
structure SameButLoads (s t : State) : Prop where
  cfg : t.cfg = s.cfg
  phase : t.phase = s.phase
  err : t.err = s.err
  rdp : t.rdp = s.rdp
  tagout : t.tagout = s.tagout
  authOk : t.authOk = s.authOk

theorem SameButLoads.store {s t : State} (i : Instr) (h : SameButLoads s t) : SameButLoads s (store i t) := by
  cases i <;> exact ⟨h.cfg, h.phase, h.err, h.rdp, h.tagout, h.authOk⟩

theorem sameButLoads_storeAll (is : List Instr) (s : State) : SameButLoads s (storeAll is s) :=
  storeAll_keeps ⟨rfl, rfl, rfl, rfl, rfl, rfl⟩ fun i _ _ h => h.store i

theorem store_cnt (i : Instr) (s : State) : (store i s).cnt = s.cnt + (pushed i).length := by
  cases i <;> rfl

theorem store_buf_wf (i : Instr) {s : State} (h : s.buf.wf = true) : (store i s).buf.wf = true := by
  cases i with
  | wrDin v => exact Memory.wf_write _ _ _ h
  | _ => exact h

/-- A push appends to the sequence (R42, R150). -/
theorem sequence_store (i : Instr) {s : State} (h : s.buf.wf = true) :
    (store i s).sequence (store i s).cnt = s.sequence s.cnt ++ pushed i := by
  cases i with
  | wrDin v =>
    have hbelow : ∀ j < s.cnt, (s.buf.write s.cnt v).read j = s.buf.read j := fun j hj =>
      Memory.read_write_other _ _ _ _ hj.ne
    simpa [store, pushed, State.sequence, List.range_succ, Memory.read_write_same, h] using hbelow
  | _ => exact (List.append_nil _).symm

theorem sequence_storeAll (is : List Instr) {s : State} (h : s.buf.wf = true) :
    (storeAll is s).sequence (storeAll is s).cnt = s.sequence s.cnt ++ is.flatMap pushed := by
  induction is generalizing s with
  | nil => exact (List.append_nil _).symm
  | cons i is ih =>
    rw [storeAll_cons, ih (store_buf_wf i h), sequence_store i h, List.flatMap_cons, List.append_assoc]

/-! ## The run of the loads -/

/-- The host operation of an action; a turn and a reset have none and are read as `NOP`. -/
def Event.operation : Event → Instr
  | .host tr => tr.operation
  | .engine | .reset _ => .cmdNop 0

/-- The data of a load fits the port (R60, R81). -/
theorem IsLoad.wf {c : Config} {i : Instr} (h : IsLoad c i) : i.wf c.dw = true := by
  have horder : c.field.order ≤ 2 ^ c.dw :=
    c.field.order_le_two_pow_fw.trans (Nat.pow_le_pow_right (by decide) (le_max_right 32 c.fw))
  have hctl : 2 ^ 32 ≤ 2 ^ c.dw := Nat.pow_le_pow_right (by decide) (le_max_left 32 c.fw)
  cases i with
  | wrK0 v | wrK1 v | wrNonce v | wrIv v | wrTagin v | wrDin v => exact decide_eq_true (lt_of_lt_of_le h horder)
  | wrLen v => exact decide_eq_true (lt_of_lt_of_le h hctl)
  | _ => exact h.elim

theorem IsLoad.isRead_eq_false {c : Config} {i : Instr} (h : IsLoad c i) : isRead i = false := by
  cases i with
  | wrK0 | wrK1 | wrNonce | wrIv | wrTagin | wrDin | wrLen => rfl
  | _ => exact h.elim

/-- An action that loads is a write transaction of the port. -/
theorem exists_host_of_isLoad {c : Config} {e : Event} (h : IsLoad c e.operation) :
    ∃ tr, e = .host tr ∧ tr.data < 2 ^ c.dw := by
  cases e with
  | engine | reset noise => exact h.elim
  | host tr =>
    have hwe : tr.we = true := by
      by_contra hread
      have hop : tr.operation = decodeRead tr.addr := if_neg hread
      have hwrite : isRead (decodeRead tr.addr) = false := hop ▸ h.isRead_eq_false
      simp [isRead_decodeRead] at hwrite
    have hdata : (encode tr.operation).data < 2 ^ c.dw := encode_data_lt (le_max_left 32 c.fw) h.wf
    rw [encode_operation, if_pos hwe] at hdata
    exact ⟨tr, rfl, hdata⟩

/-- A load stores beside the queue (log 5). -/
theorem store_withQueue (i : Instr) (s : State) (q : List Event) :
    store i { s with inputs := q } = { store i s with inputs := q } := by
  cases i <;> rfl

theorem reaches_store {e : Event} {s : State} (he : IsLoad s.cfg e.operation) (hp : s.phase = .idle)
    (hroom : s.cnt + (pushed e.operation).length ≤ s.cfg.maxBlocks) : Reaches s [e] (store e.operation s) := by
  obtain ⟨tr, rfl, hfit⟩ := exists_host_of_isLoad he
  refine .of_exec (decode_eq_ok_iff.mpr ⟨hfit, rfl⟩) fun q => ?_
  rw [← store_withQueue]
  exact exec_load he hp hroom

/-- Loads are accepted one after the other, where `BUF` has room for the blocks among them. -/
theorem reaches_storeAll {loads : List Event} {s : State} (hloads : ∀ e ∈ loads, IsLoad s.cfg e.operation)
    (hp : s.phase = .idle)
    (hroom : s.cnt + ((loads.map Event.operation).flatMap pushed).length ≤ s.cfg.maxBlocks) :
    Reaches s loads (storeAll (loads.map Event.operation) s) := by
  induction loads generalizing s with
  | nil => exact .nil s
  | cons e loads ih =>
    obtain ⟨he, hrest⟩ := List.forall_mem_cons.mp hloads
    rw [List.map_cons, List.flatMap_cons, List.length_append] at hroom
    have hsame : SameButLoads s (store e.operation s) := .store e.operation ⟨rfl, rfl, rfl, rfl, rfl, rfl⟩
    refine (reaches_store he hp (by omega)).cons (ih (hsame.cfg ▸ hrest) (hsame.phase.trans hp) ?_)
    rw [store_cnt, hsame.cfg]
    omega

/-! ## The loads of the protocol -/

/-- The operations of steps 2 to 6 of R245, in one of their orders. -/
def protocolLoads (k0 k1 n : Elt) (iv tag : Option Elt) (xs : List Elt) : List Instr :=
  [.wrK0 k0, .wrK1 k1, .wrNonce n, .wrLen xs.length] ++ iv.toList.map .wrIv ++ tag.toList.map .wrTagin ++ xs.map .wrDin

/-- Which data each of the operations has. -/
def OfProtocol (k0 k1 n : Elt) (iv tag : Option Elt) (xs : List Elt) : Instr → Prop
  | .wrK0 v => v = k0
  | .wrK1 v => v = k1
  | .wrNonce v => v = n
  | .wrLen v => v = xs.length
  | .wrIv v => v ∈ iv
  | .wrTagin v => v ∈ tag
  | .wrDin v => v ∈ xs
  | _ => False

section
variable {k0 k1 n : Elt} {iv tag : Option Elt} {xs : List Elt}

theorem mem_protocolLoads_iff (i : Instr) :
    i ∈ protocolLoads k0 k1 n iv tag xs ↔ OfProtocol k0 k1 n iv tag xs i := by
  cases i <;> simp [protocolLoads, OfProtocol]

/-- The loads of the protocol have data in range where its arguments have. -/
theorem OfProtocol.isLoad {c : Config} {i : Instr} (h : OfProtocol k0 k1 n iv tag xs i)
    (h0 : k0 < c.field.order) (h1 : k1 < c.field.order) (hn : n < c.field.order) (hiv : ∀ v ∈ iv, v < c.field.order)
    (htag : ∀ v ∈ tag, v < c.field.order) (hxs : canonicalList c.field xs) (hlen : xs.length < 2 ^ 32) :
    IsLoad c i := by
  cases i with
  | wrK0 v => exact h.trans_lt h0
  | wrK1 v => exact h.trans_lt h1
  | wrNonce v => exact h.trans_lt hn
  | wrLen v => exact h.trans_lt hlen
  | wrIv v => exact hiv v h
  | wrTagin v => exact htag v h
  | wrDin v => exact hxs v h
  | _ => exact h.elim

variable {loads : List Event} (hseq : loadSequence (operandWrites k0 k1 n iv tag xs.length) xs loads)
include hseq

theorem mem_operations_iff (i : Instr) : i ∈ loads.map Event.operation ↔ OfProtocol k0 k1 n iv tag xs i := by
  obtain ⟨hperm, -⟩ := hseq
  rw [← mem_protocolLoads_iff, (hperm.map Event.operation).mem_iff]
  simp only [operandWrites, List.map_append, List.map_map]
  rfl

/-- The blocks are pushed in the order of the sequence. -/
theorem pushed_operations : (loads.map Event.operation).flatMap pushed = xs := by
  obtain ⟨hperm, hsub⟩ := hseq
  have hpushes : ((xs.map (writeEvent .din)).map Event.operation).flatMap pushed = xs := by
    clear hperm hsub
    induction xs with
    | nil => rfl
    | cons x xs ih => exact congrArg (x :: ·) ih
  have hoperands : ((operandWrites k0 k1 n iv tag xs.length).map Event.operation).flatMap pushed = [] := by
    cases iv <;> cases tag <;> rfl
  have hsub' := (hsub.map Event.operation).flatMap pushed
  have hlen := ((hperm.map Event.operation).flatMap_right pushed).length_eq
  rw [List.map_append, List.flatMap_append, hoperands, hpushes, List.nil_append] at hlen
  rw [hpushes] at hsub'
  exact (hsub'.eq_of_length hlen.symm).symm

/-- What the loads of the protocol leave, in any order, `s` being the state before. -/
structure Loaded (s : State) (k0 k1 n : Elt) (iv tag : Option Elt) (xs : List Elt) (b : State) : Prop
    extends SameButLoads s b where
  key0 : b.k0 = k0 ∧ b.k0v = true
  key1 : b.k1 = k1 ∧ b.k1v = true
  nonce : b.nonce = n ∧ b.nv = true
  iv : b.iv = iv.getD s.iv
  tagin : ∀ v ∈ tag, b.tagin = v ∧ b.tv = true
  len : b.len = BitVec.ofNat 32 xs.length
  bufForm : b.buf.wf = true
  sequence : b.sequence b.cnt = xs

/-- Each register that is loaded is written by one kind of load, and the protocol has one value for it. -/
theorem loaded_storeAll {s : State} (hcnt : s.cnt = 0) (hwf : s.buf.wf = true) :
    Loaded s k0 k1 n iv tag xs (storeAll (loads.map Event.operation) s) := by
  have hmem := mem_operations_iff hseq
  constructor
  case toSameButLoads => exact sameButLoads_storeAll _ s
  case key0 =>
    refine storeAll_of_mem (P := fun t => t.k0 = k0 ∧ t.k0v = true) ((hmem (.wrK0 k0)).mpr rfl)
      (fun _ => ⟨rfl, rfl⟩) fun i hi => ?_
    cases i with
    | wrK0 v => exact .inl (congrArg Instr.wrK0 ((hmem _).mp hi))
    | _ => exact .inr fun _ h => h
  case key1 =>
    refine storeAll_of_mem (P := fun t => t.k1 = k1 ∧ t.k1v = true) ((hmem (.wrK1 k1)).mpr rfl)
      (fun _ => ⟨rfl, rfl⟩) fun i hi => ?_
    cases i with
    | wrK1 v => exact .inl (congrArg Instr.wrK1 ((hmem _).mp hi))
    | _ => exact .inr fun _ h => h
  case nonce =>
    refine storeAll_of_mem (P := fun t => t.nonce = n ∧ t.nv = true) ((hmem (.wrNonce n)).mpr rfl)
      (fun _ => ⟨rfl, rfl⟩) fun i hi => ?_
    cases i with
    | wrNonce v => exact .inl (congrArg Instr.wrNonce ((hmem _).mp hi))
    | _ => exact .inr fun _ h => h
  case len =>
    refine storeAll_of_mem (P := fun t => t.len = BitVec.ofNat 32 xs.length) ((hmem (.wrLen xs.length)).mpr rfl)
      (fun _ => rfl) fun i hi => ?_
    cases i with
    | wrLen v => exact .inl (congrArg Instr.wrLen ((hmem _).mp hi))
    | _ => exact .inr fun _ h => h
  case tagin =>
    intro v hv
    refine storeAll_of_mem (P := fun t => t.tagin = v ∧ t.tv = true) ((hmem (.wrTagin v)).mpr hv)
      (fun _ => ⟨rfl, rfl⟩) fun i hi => ?_
    cases i with
    | wrTagin w => exact .inl (congrArg Instr.wrTagin (Option.mem_unique ((hmem _).mp hi) hv))
    | _ => exact .inr fun _ h => h
  case iv =>
    cases iv with
    | none =>
      refine storeAll_keeps (P := fun t => t.iv = s.iv) rfl fun i hi => ?_
      cases i with
      | wrIv w => cases (hmem _).mp hi
      | _ => exact fun _ h => h
    | some v =>
      refine storeAll_of_mem (P := fun t => t.iv = v) ((hmem (.wrIv v)).mpr rfl) (fun _ => rfl) fun i hi => ?_
      cases i with
      | wrIv w => exact .inl (congrArg Instr.wrIv (Option.mem_unique ((hmem _).mp hi) rfl))
      | _ => exact .inr fun _ h => h
  case bufForm => exact storeAll_keeps (P := fun t => t.buf.wf = true) hwf fun i _ _ => store_buf_wf i
  case sequence =>
    rw [sequence_storeAll _ hwf, hcnt, pushed_operations hseq]
    rfl

/-- Steps 2 to 6 of the protocol (R245). -/
theorem exists_reaches_loaded {s : State} (hs : s.Inv) (hp : s.phase = .idle) (hcnt : s.cnt = 0)
    (hroom : xs.length ≤ s.cfg.maxBlocks) (h0 : k0 < s.cfg.field.order) (h1 : k1 < s.cfg.field.order)
    (hn : n < s.cfg.field.order) (hiv : ∀ v ∈ iv, v < s.cfg.field.order) (htag : ∀ v ∈ tag, v < s.cfg.field.order)
    (hxs : canonicalList s.cfg.field xs) : ∃ b, Reaches s loads b ∧ Loaded s k0 k1 n iv tag xs b := by
  have hlen : xs.length < 2 ^ 32 := hroom.trans_lt (Config.maxBlocks_lt hs.build)
  refine ⟨_, reaches_storeAll (fun e he => ?_) hp ?_, loaded_storeAll hseq hcnt hs.canonical.bufForm⟩
  · exact ((mem_operations_iff hseq _).mp (List.mem_map_of_mem he)).isLoad h0 h1 hn hiv htag hxs hlen
  · rwa [hcnt, pushed_operations hseq, Nat.zero_add]

end

end Sys2Proof.Machine
end

section
/-! The whole session protocol (R245): from a state that is loaded, the session of either mode with its wait, its results
and `CLR`, and all of it from `IDLE`. -/

open Sys2Proof.Claims

namespace Sys2Proof.Machine

/-- The sequencer is idle with nothing raised and nothing popped, and a start command of the mode is accepted. -/
structure State.Ready (m : Mode) (b : State) : Prop where
  cfgOk : b.cfg.cfgOk = true
  phase : b.phase = .idle
  operands : b.operandsValid m = true
  cnt : b.cnt = b.len.toNat
  room : b.cnt ≤ b.cfg.maxBlocks
  bufForm : b.buf.wf = true
  err : b.err = 0
  rdp : b.rdp = 0
  tagout : b.tagout = 0
  authOk : b.authOk = false

section
variable {s b : State} {k0 k1 n : Elt} {iv tag : Option Elt} {xs : List Elt} (h : Loaded s k0 k1 n iv tag xs b)
include h

theorem Loaded.cnt_eq : b.cnt = xs.length := by
  simpa [State.sequence] using congrArg List.length h.sequence

theorem Loaded.encrypt_eq :
    encrypt b.cfg b.k0 b.k1 b.nonce b.iv (b.sequence b.cnt) = encrypt s.cfg k0 k1 n (iv.getD s.iv) xs := by
  rw [h.cfg, h.key0.1, h.key1.1, h.nonce.1, h.iv, h.sequence]

theorem Loaded.decrypt_eq {v : Elt} (hv : v ∈ tag) :
    decrypt b.cfg b.k0 b.k1 b.nonce b.iv (b.sequence b.cnt) b.tagin = decrypt s.cfg k0 k1 n (iv.getD s.iv) xs v := by
  rw [h.cfg, h.key0.1, h.key1.1, h.nonce.1, h.iv, h.sequence, (h.tagin v hv).1]

/-- What is loaded is what the start command tests (R182, R183). -/
theorem Loaded.ready {m : Mode} (hs : s.Inv) (hok : s.cfg.cfgOk = true) (hp : s.phase = .idle) (herr : s.err = 0)
    (hroom : xs.length ≤ s.cfg.maxBlocks) (hm : m = .decrypt → tag.isSome = true) : b.Ready m := by
  have hlive := hs.live hok
  obtain ⟨-, -, htagv, hauth, -, hrdp⟩ := hlive.idle hp
  obtain ⟨-, hk0⟩ := h.key0
  obtain ⟨-, hk1⟩ := h.key1
  obtain ⟨-, hnv⟩ := h.nonce
  have hlen : xs.length < 2 ^ 32 := hroom.trans_lt (Config.maxBlocks_lt hs.build)
  have hvalid : b.operandsValid m = true := by
    cases m with
    | encrypt => simp [State.operandsValid, hk0, hk1, hnv]
    | decrypt =>
      obtain ⟨v, hv⟩ := Option.isSome_iff_exists.mp (hm rfl)
      obtain ⟨-, htv⟩ := h.tagin v hv
      simp [State.operandsValid, hk0, hk1, hnv, htv]
  exact {
    cfgOk := h.cfg ▸ hok
    phase := h.phase.trans hp
    operands := hvalid
    cnt := by rw [h.cnt_eq, h.len, BitVec.toNat_ofNat, Nat.mod_eq_of_lt hlen]
    room := by rwa [h.cnt_eq, h.cfg]
    bufForm := h.bufForm
    err := h.err.trans herr
    rdp := h.rdp.trans hrdp
    tagout := h.tagout.trans (hlive.noTag htagv)
    authOk := h.authOk.trans hauth }

end

/-! ## The session of a mode -/

/-- No commit of a block raises (R213) or sets `AUTH_OK` (R197). -/
@[simp] theorem State.atCommit_err (b : State) : b.atCommit.err = b.err := rfl
@[simp] theorem State.atCommit_authOk (b : State) : b.atCommit.authOk = b.authOk := rfl

section
variable {b : State} {wait : List Event} (hwait : waiting (nSteps b.cfg b.cnt) wait)
include hwait

/-- Steps 7 to 12 in encrypt mode. -/
theorem State.Ready.encrypts (h : b.Ready .encrypt) {ct : List Elt} {tag : Elt}
    (henc : encrypt b.cfg b.k0 b.k1 b.nonce b.iv (b.sequence b.cnt) = (ct, tag)) :
    ∃ t, Reaches b ([writeEvent .cmd 0x01] ++ wait) t ∧ t.phase = .done ∧ t.err = 0 ∧ ct.length = b.cnt ∧
      ∀ q, resultsReadable { t with inputs := q } ct tag := by
  have hu := microStep_finCommitEnc rfl rfl (slot_atCommit .encrypt h.cfgOk h.cnt) rfl
  obtain ⟨v, hrun⟩ := reaches_session h.cfgOk h.cnt h.room hu rfl h.phase h.operands hwait
  rw [encrypt_eq] at henc
  obtain ⟨rfl, rfl⟩ := Prod.mk.inj henc
  refine ⟨_, hrun, rfl, h.err, by simp [State.sequence], fun q => ?_⟩
  obtain ⟨hseq, -⟩ := sequence_atCommit .encrypt h.bufForm h.cnt rfl
  exact hseq ▸ resultsReadable_of_done rfl h.room h.rdp h.err

/-- Steps 7 to 12 in decrypt mode. -/
theorem State.Ready.decrypts (h : b.Ready .decrypt) :
    ∃ t, Reaches b ([writeEvent .cmd 0x02] ++ wait) t ∧
      (∀ msg, decrypt b.cfg b.k0 b.k1 b.nonce b.iv (b.sequence b.cnt) b.tagin = .ok msg →
        t.phase = .done ∧ t.authOk = true ∧ t.err = 0 ∧ msg.length = b.cnt ∧
          ∀ q, resultsReadable { t with inputs := q } msg 0) ∧
      (decrypt b.cfg b.k0 b.k1 b.nonce b.iv (b.sequence b.cnt) b.tagin = .error .authenticationError →
        t.phase = .fail ∧ t.authOk = false ∧ t.err = 0x002 ∧ ∀ q, clears { t with inputs := q }) := by
  have hslot := slot_atCommit .decrypt h.cfgOk h.cnt
  by_cases htag : maskAt b.cfg (keySchedule b.cfg b.k0 b.k1 b.nonce b.iv) (b.sequence b.cnt).length = b.tagin
  · have hu := microStep_finCommitDecOk rfl rfl hslot rfl htag
    obtain ⟨v, hrun⟩ := reaches_session h.cfgOk h.cnt h.room hu rfl h.phase h.operands hwait
    refine ⟨_, hrun, fun msg hdec => ?_, fun hdec => by simp [decrypt_eq, htag] at hdec⟩
    obtain ⟨-, rfl⟩ := (decrypt_eq_ok_iff ..).mp hdec
    refine ⟨rfl, rfl, h.err, by simp [State.sequence], fun q => ?_⟩
    obtain ⟨hseq, -⟩ := sequence_atCommit .decrypt h.bufForm h.cnt rfl
    exact hseq ▸ h.tagout ▸ resultsReadable_of_done rfl h.room h.rdp h.err
  · obtain ⟨u, hu, hphase, hauth, herr⟩ : ∃ u, microStep (b.beginSession .decrypt).atCommit = .next u ∧
        u.phase = .fail ∧ u.authOk = false ∧ u.err = 0x002 := by
      exact ⟨_, microStep_finCommitDecFail rfl rfl hslot rfl htag, rfl, by simp [h.authOk],
        by simp [h.err, Exc.mask, Exc.code]⟩
    obtain ⟨v, hrun⟩ := reaches_session h.cfgOk h.cnt h.room hu (by simp [hphase, Phase.busy]) h.phase h.operands hwait
    refine ⟨_, hrun, fun msg hdec => ?_, fun _ => ⟨hphase, hauth, herr, fun q => ?_⟩⟩
    · obtain ⟨heq, -⟩ := (decrypt_eq_ok_iff ..).mp hdec
      exact absurd heq.symm htag
    · exact clears_of_settled (.inr hphase) (by simp [herr])

end

/-- Settles O59: the loads in any order leave a state that is ready for the start command of the mode, and the session
from it computes the function of R116 or R117 of what was loaded. -/
theorem sessionProtocolIsNeverRefused : Obligations.SessionProtocolIsNeverRefused := by
  intro s k0 k1 n iv xs loads wait hs hok hp hcnt herr hroom h0 h1 hn hiv hxs hwait
  refine ⟨fun ct tag hseq henc => ?encrypt, fun tag htag hseq => ?decrypt⟩
  case encrypt =>
    obtain ⟨b, hload, hb⟩ := exists_reaches_loaded hseq hs hp hcnt hroom h0 h1 hn hiv nofun hxs
    have hready : b.Ready .encrypt := hb.ready hs hok hp herr hroom nofun
    rw [← hb.encrypt_eq] at henc
    rw [← hb.cfg, ← hb.cnt_eq] at hwait
    obtain ⟨t, hrun, hend, hclear, hlen, hresults⟩ := hready.encrypts hwait henc
    have hruns := (hload.append hrun).runs
    rw [← List.append_assoc] at hruns
    exact ⟨_, hruns, hend, hclear, hlen.trans hb.cnt_eq, hresults _⟩
  case decrypt =>
    obtain ⟨b, hload, hb⟩ := exists_reaches_loaded hseq hs hp hcnt hroom h0 h1 hn hiv (by simpa using htag) hxs
    have hready : b.Ready .decrypt := hb.ready hs hok hp herr hroom fun _ => rfl
    rw [← hb.cfg, ← hb.cnt_eq] at hwait
    obtain ⟨t, hrun, hverified, hfailed⟩ := hready.decrypts hwait
    rw [hb.decrypt_eq rfl, hb.cnt_eq] at hverified
    rw [hb.decrypt_eq rfl] at hfailed
    have hruns := (hload.append hrun).runs
    rw [← List.append_assoc] at hruns
    refine ⟨_, hruns, fun msg hdec => ?_, fun hdec => ?_⟩
    · obtain ⟨hend, hauth, hclear, hlen, hresults⟩ := hverified msg hdec
      exact ⟨hend, hauth, hclear, hlen, hresults _⟩
    · obtain ⟨hend, hauth, hfail, hclears⟩ := hfailed hdec
      exact ⟨hend, hauth, hfail, hclears _⟩

end Sys2Proof.Machine
end
